-- ==== Sys2Proof/Word.lean ====
section
/-! DEFINITION. The word types of the Octo CORE (00_scope.md R5, R12): bytes, 16-bit words and addresses, 4-bit register
indices. Every value is unsigned and every bit vector operation wraps, as R13 and R65 ask. -/

namespace Sys2Proof

/-- One byte: a general register, a timer, a memory cell (R5). -/
abbrev Byte := BitVec 8

/-- A 16-bit word: an instruction word, the program counter, the index register, an address (R5). -/
abbrev Word := BitVec 16

/-- A register index: "always masked to 4 bits on access" (R14, R20), so it is a 4-bit value by type. -/
abbrev Reg := BitVec 4

/-- Register 15, `vF`, the machine's only status flag (R21). -/
def vF : Reg := 15

end Sys2Proof
end

