-- ==== Sys2Proof/Config.lean ====
section
/-! DEFINITION. What the spec leaves to the environment: the five quirk booleans `Q` (R6) and the random input (R9). -/

namespace Sys2Proof

/-- The configuration `Q`, five booleans fixed for the process lifetime (R6, R40). Each field is named by what `true`
selects. The first three polarities are the spec's decisions D4, D5, D6, UNVERIFIED (log entry 7). -/
structure Quirks where
  /-- `true`: shifts take their source from `v[x]`; `false`: from `v[y]` (R168, R170). -/
  shiftVx : Bool
  /-- `true`: `STM` and `LDM` add `x+1` to `I` afterwards (R196). -/
  memAdvance : Bool
  /-- `true`: flag written first, destination second; `false`: the other order (R161). -/
  vfFirst : Bool
  /-- `true`: `JPO` adds `v[nnn[11:8]]`; `false`: `v[0]` (R144). -/
  jumpVx : Bool
  /-- `true`: off-screen sprite pixels are skipped; `false`: they wrap around (R231). -/
  clip : Bool
  deriving DecidableEq, Repr, Inhabited

/-- FREE VALUE (log entry 2): the quirks of `State.reset`. The spec makes them a parameter of the machine (R6, U2), so no
value of them can be proved. -/
opaque Config.quirks : Quirks

/-- FREE VALUE (log entry 1): the random byte consumed by the `k`-th execution of `RND`: "one fresh 8-bit value that no rule
constrains" (R9, R175). -/
opaque Config.rnd : Nat → Byte

end Sys2Proof
end

