-- ==== Sys2Proof/Machine/State.lean ====
section
/-! DEFINITION. The machine's state as plain data (10_state.md R20-R45), the reasons a step can stop, and the state after reset.
INVENTORY.md lists every field with its rule. -/

namespace Sys2Proof.Machine

/-- One cell of the display: a bit for each plane (R33). -/
structure Cell where
  p1 : Bool
  p2 : Bool
  deriving DecidableEq, Repr

/-- A clear cell. -/
def Cell.clear : Cell := ⟨false, false⟩

/-- The two display planes (R18, R30). -/
inductive PlaneId where
  | one
  | two
  deriving DecidableEq, Repr

/-- The display: 64 rows of 128 cells, `disp[r][c]` (R33). -/
abbrev Display := Vector (Vector Cell 128) 64

/-- Every cell clear. -/
def Display.blank : Display := Vector.replicate 64 (Vector.replicate 128 Cell.clear)

/-- The causes of a halt (R39, R261). -/
inductive HaltCause where
  | none
  | exit
  | unknownOpcode
  | stackOverflow
  | stackUnderflow
  deriving DecidableEq, Repr

/-- Memory as (address, byte) pairs: addresses strictly rising, no entry equal to what an unlisted address reads as. -/
abbrev Memory := List Host.Cell

/-- What an address that the list does not hold reads as: 0, as the spec has every byte that Reset does not load (R301, decision
D13; log entry 3). -/
def Memory.unlisted : Byte := 0

/-- The canonical form of a memory (R60: 65536 cells). -/
abbrev Memory.wf (m : Memory) : Prop :=
  m.Pairwise (fun a b => a.1 < b.1) ∧ ∀ c ∈ m, c.1 < 65536 ∧ c.2 ≠ Memory.unlisted

/-- The complete state (R44), and the model's own counter of random values used. -/
structure State where
  /-- General registers `v[0..15]`; `v[15]` is also the flag (R20, R21). -/
  v : Vector Byte 16
  /-- Program counter: the address of the next instruction to fetch (R23). -/
  pc : Word
  /-- Index register `I` (R25). -/
  idx : Word
  /-- Flag storage registers `flags[0..7]` (R26). -/
  flags : Vector Byte 8
  /-- Call stack entries `stack[0..15]`; those below `sp` are valid (R27). -/
  stack : Vector Word 16
  /-- Stack pointer, the number of valid entries, in [0,16] (R27). -/
  sp : Fin 17
  /-- Delay timer (R28). -/
  dt : Byte
  /-- Sound timer (R29). -/
  st : Byte
  /-- Plane-select mask: bit 0 selects plane 1, bit 1 plane 2 (R30). -/
  plane : BitVec 2
  /-- Hi-res mode flag: `false` is 64x32, `true` is 128x64 (R31). -/
  hires : Bool
  /-- The display cells (R33). -/
  disp : Display
  /-- Key booleans `keys[0..15]` (R36). -/
  keys : Vector Bool 16
  /-- The core is suspended until a key-down (R37). -/
  waiting : Bool
  /-- The register that receives the key code of the wait (R37). -/
  waitReg : Reg
  /-- The halt flag (R38). -/
  halted : Bool
  /-- The cause recorded by the halt (R39). -/
  haltCause : HaltCause
  /-- The instruction word recorded by the halt (R39). -/
  haltOp : Word
  /-- Audio-pattern buffer `pattern[0..15]` (R41). -/
  pattern : Vector Byte 16
  /-- The configuration `Q`, constant after Reset (R40). -/
  quirks : Quirks
  /-- Memory, 65536 bytes (R42, R60). -/
  mem : Memory
  /-- THE MODEL'S OWN FIELD, not the spec's: how many values of the random input have been consumed (log entry 1). -/
  rndIndex : Nat
  deriving DecidableEq, Repr

/-- The faults of a step: NONE. The spec's only exception is the halt, which every step takes as a next state (R260, R267; log
entry 23), and no memory access can fail (R61, R62), so the type has no constructor and nobody can raise one (safe). -/
inductive Fault where
  deriving DecidableEq, Repr

/-- The refusals of a step. -/
inductive Refusal where
  /-- An instruction without a meaning in the dispatch, by its mnemonic. Raised by nobody: every arm has its meaning (safe). -/
  | notModelled (mnemonic : String)
  deriving DecidableEq, Repr

/-- What a meaning and a step answer. -/
abbrev Result := Host.Outcome State Fault Refusal

/-- The machine right after reset (R44, R300), with no program placed. The quirks are the free `Config.quirks` (log entry 2);
memory lists nothing, that is fonts of zeros and an empty program (log entries 3, 4). `State.boot` in Machine/Reset.lean is
the Reset event for any quirks, fonts and program. -/
def State.reset : State where
  v := Vector.replicate 16 0
  pc := 0x0200
  idx := 0
  flags := Vector.replicate 8 0
  stack := Vector.replicate 16 0
  sp := 0
  dt := 0
  st := 0
  plane := 1
  hires := false
  disp := Display.blank
  keys := Vector.replicate 16 false
  waiting := false
  waitReg := 0
  halted := false
  haltCause := .none
  haltOp := 0
  pattern := Vector.replicate 16 0
  quirks := Config.quirks
  mem := []
  rndIndex := 0

end Sys2Proof.Machine
end

