-- ==== Sys2Proof/Machine/Ops.lean ====
section
/-! DEFINITION. The named operations over memory, registers, stack and program counter, and the machine's one exception, the
halt, as one shared operation (00_scope.md R14-R16, 20_memory.md R60-R65, 60_exceptions.md R260). There is no return from
an exception to model: "no instruction clears `halted`" (R268). -/

namespace Sys2Proof.Machine

/-! ## Memory -/

/-- The byte at an address (R61). -/
def Memory.read : Memory → Nat → Byte
  | [], _ => Memory.unlisted
  | c :: rest, a => if c.1 = a then c.2 else Memory.read rest a

/-- The memory without an entry for an address. -/
def Memory.erase (m : Memory) (a : Nat) : Memory := m.filter fun c => c.1 != a

/-- The memory with an entry put before the first higher address. -/
def Memory.insert : Memory → Nat → Byte → Memory
  | [], a, b => [(a, b)]
  | c :: rest, a, b => if a < c.1 then (a, b) :: c :: rest else c :: Memory.insert rest a b

/-- Set the byte at an address, keeping the canonical form (R62). -/
def Memory.write (m : Memory) (a : Nat) (b : Byte) : Memory :=
  if b = Memory.unlisted then m.erase a else (m.erase a).insert a b

/-- Set consecutive bytes from an address on, without wrapping: the loader of Reset (R301). -/
def Memory.load : Memory → Nat → List Byte → Memory
  | m, _, [] => m
  | m, a, b :: bs => Memory.load (m.write a b) (a + 1) bs

/-- `MemRead(a, 1)`; the address is a 16-bit value, so already reduced modulo 65536 (R15, R61, R65). -/
def State.readByte (s : State) (a : Word) : Byte := s.mem.read a.toNat

/-- `MemWrite(a, 1, b)` (R15, R62). -/
def State.writeByte (s : State) (a : Word) (b : Byte) : State := { s with mem := s.mem.write a.toNat b }

/-- `MemRead(a, 2)`: big-endian, the second address wrapping (R15, R63). -/
def State.readWord (s : State) (a : Word) : Word := s.readByte a ++ s.readByte (a + 1)

/-- Byte writes in ascending address order, addresses wrapping (R62, R65). -/
def State.storeBytes : State → Word → List Byte → State
  | s, _, [] => s
  | s, a, b :: bs => State.storeBytes (s.writeByte a b) (a + 1) bs

/-! ## General registers -/

/-- `v[r]` (R14, R20). -/
def State.getV (s : State) (r : Reg) : Byte := s.v[r.toNat]'r.isLt

/-- `v[r] <- b` (R14, R20). -/
def State.setV (s : State) (r : Reg) (b : Byte) : State := { s with v := s.v.set r.toNat b r.isLt }

/-- Registers loaded one byte each from ascending addresses, addresses wrapping (R199, R201, R65). -/
def State.loadRegs : State → Word → List Reg → State
  | s, _, [] => s
  | s, a, r :: rs => State.loadRegs (s.setV r (s.readByte a)) (a + 1) rs

/-! ## Program counter -/

/-- The advance by 2 at every fetch (R24, R120). -/
def State.advancePc (s : State) : State := { s with pc := s.pc + 2 }

/-- `pc <- a`. -/
def State.jump (s : State) (a : Word) : State := { s with pc := a }

/-- A skip: a further 2 when the condition holds, whatever word is skipped (R151). -/
def State.skipIf (s : State) (c : Bool) : State := if c then s.advancePc else s

/-! ## The halt -/

/-- `raise Halt(cause, op)`: taking the machine's only exception (R260, R267). The pc keeps the value it has, the fetch address
plus 2; nothing else changes and control goes nowhere. -/
def State.raiseHalt (s : State) (cause : HaltCause) (op : Word) : State :=
  { s with halted := true, haltCause := cause, haltOp := op }

/-- The numeric code of a cause (R261). -/
def HaltCause.code : HaltCause → BitVec 3
  | .none => 0
  | .exit => 1
  | .unknownOpcode => 2
  | .stackOverflow => 3
  | .stackUnderflow => 4

/-- The core makes no progress: halted or waiting (R126, R280). -/
def State.stalled (s : State) : Bool := s.halted || s.waiting

/-! ## Call stack -/

/-- Push the pc: `stack[sp] <- pc; sp <- sp + 1`, and `none` when all 16 entries are valid (R27, R143). -/
def State.push (s : State) : Option State :=
  if h : s.sp.val < 16 then
    some { s with stack := s.stack.set s.sp.val s.pc h, sp := ⟨s.sp.val + 1, Nat.succ_lt_succ h⟩ }
  else none

/-- Pop into the pc: `sp <- sp - 1; pc <- stack[sp]`, and `none` when no entry is valid (R27, R141). The popped entry stays. -/
def State.pop (s : State) : Option State :=
  if h : 0 < s.sp.val then
    some { s with
      pc := s.stack[s.sp.val - 1]'(by have := s.sp.isLt; omega)
      sp := ⟨s.sp.val - 1, by have := s.sp.isLt; omega⟩ }
  else none

/-! ## Key state -/

/-- `keys[k]` (R36). -/
def State.key (s : State) (k : BitVec 4) : Bool := s.keys[k.toNat]'k.isLt

/-- `keys[k] <- b` (R36). -/
def State.setKey (s : State) (k : BitVec 4) (b : Bool) : State := { s with keys := s.keys.set k.toNat b k.isLt }

end Sys2Proof.Machine
end

