-- ==== Sys2Proof/Machine/Flags.lean ====
section
/-! DEFINITION. The flag computations of the ALU and the flag-writing procedure (42_alu.md R161, R174). `v[15]` is the only flag
(R21); there is no zero, sign or overflow flag. -/

namespace Sys2Proof.Machine

/-- A condition as a flag value, `b2i` (R13). -/
def flagByte (c : Bool) : Byte := if c then 1 else 0

/-- Carry of an addition: the unsigned sum exceeds 255 (R166, R174). -/
def carryOf (a b : Byte) : Bool := 255 < a.toNat + b.toNat

/-- Not-borrow of `a - b`: `a >= b` (R167, R169, R174). -/
def notBorrow (a b : Byte) : Bool := b.toNat ≤ a.toNat

/-- The bit a right shift by one puts out (R168). -/
def outRight (a : Byte) : Bool := a.getLsbD 0

/-- The bit a left shift by one puts out (R170). -/
def outLeft (a : Byte) : Bool := a.getLsbD 7

/-- `WriteFlagged(x, val, flag)`: the order of the two writes is the flag-write-order quirk (R161, decision D6), which shows only
when `x = 15`. -/
def State.writeFlagged (s : State) (x : Reg) (val : Byte) (flag : Bool) : State :=
  if s.quirks.vfFirst then (s.setV vF (flagByte flag)).setV x val
  else (s.setV x val).setV vF (flagByte flag)

end Sys2Proof.Machine
end

