-- ==== Sys2Proof/Machine/Operands.lean ====
section
/-! DEFINITION. Every operand form the spec gives: register ranges, the quirk-selected registers, effective addresses, font
addresses, key codes and decimal digits. -/

namespace Sys2Proof.Machine

/-- `v[x]`, or `v[y]` without the shift-source quirk: the source of the shifts (R168, R170, decision D4). -/
def State.shiftSource (s : State) (x y : Reg) : Byte := if s.quirks.shiftVx then s.getV x else s.getV y

/-- The register `JPO` adds: `nnn[11:8]` under the jump-offset quirk, else 0 (R144). -/
def State.jumpReg (s : State) (nnn : BitVec 12) : Reg := if s.quirks.jumpVx then nnn.extractLsb' 8 4 else 0

/-- `zext_16` of a 12-bit address (R93). -/
def addr12 (nnn : BitVec 12) : Word := nnn.zeroExtend 16

/-- The effective address `trunc16(I + z)`, the only addressing mode (R65, R195). -/
def State.ea (s : State) (z : Nat) : Word := s.idx + BitVec.ofNat 16 z

/-- Registers `0..x` inclusive, ascending: the range of `STM` and `LDM` (R198, R199). -/
def regsUpTo (x : Reg) : List Reg := (List.range (x.toNat + 1)).map (BitVec.ofNat 4)

/-- The register at offset `z` of the range from `x` towards `y` (R200, R201). -/
def spanReg (x y : Reg) (z : Nat) : Reg :=
  if x.toNat < y.toNat then BitVec.ofNat 4 (x.toNat + z) else BitVec.ofNat 4 (x.toNat - z)

/-- `abs(x - y)` (R200). -/
def spanDist (x y : Reg) : Nat := if x.toNat < y.toNat then y.toNat - x.toNat else x.toNat - y.toNat

/-- Registers from `x` to `y` inclusive, in either direction: the range of `STR` and `LDR` (R200, R201). -/
def regSpan (x y : Reg) : List Reg := (List.range (spanDist x y + 1)).map (spanReg x y)

/-- The last register of the flag-bank copies: `min(x, 7)` (R202, decision D9). -/
def flagLast (x : Reg) : Nat := min x.toNat 7

/-- The low 4 bits of a register as a digit or key code (R149, R193, decision D8). -/
def lowNibble (b : Byte) : BitVec 4 := b.extractLsb' 0 4

/-- The small-font glyph address, `digit * 5` (R193). -/
def smallFontAddr (digit : BitVec 4) : Word := BitVec.ofNat 16 (digit.toNat * 5)

/-- The large-font glyph address, `digit * 10 + 80` (R194). -/
def largeFontAddr (digit : BitVec 4) : Word := BitVec.ofNat 16 (digit.toNat * 10 + 80)

/-- The three decimal digits of a byte: hundreds, tens, units (R197). -/
def bcdDigits (b : Byte) : List Byte :=
  [BitVec.ofNat 8 (b.toNat / 100), BitVec.ofNat 8 (b.toNat / 10 % 10), BitVec.ofNat 8 (b.toNat % 10)]

/-- The index advance shared by `STM` and `LDM`: `I <- I + x + 1` under the memory-index-advance quirk (R196, decision D5). -/
def State.advanceIndex (s : State) (x : Reg) : State :=
  if s.quirks.memAdvance then { s with idx := s.ea (x.toNat + 1) } else s

/-- The next value of the random input: a free value for each use (R9, R175; log entry 1). -/
def State.freshRnd (s : State) : Byte := Config.rnd s.rndIndex

/-- One more value of the random input used (log entry 1). -/
def State.useRnd (s : State) : State := { s with rndIndex := s.rndIndex + 1 }

end Sys2Proof.Machine
end

