-- ==== Sys2Proof/Machine/Alu.lean ====
section
/-! DEFINITION. Register loads, arithmetic, bitwise, shift and random instructions (42_alu.md R160-R175). Results and flags are
computed from the old registers before any register is written (R160). -/

namespace Sys2Proof.Machine

/-- `LDI Vx, nn` (R172). -/
def execLdi (x : Reg) (nn : Byte) (s : State) : Result := .next (s.setV x nn)

/-- `ADDI Vx, nn`: no flag (R173, decision D33). -/
def execAddi (x : Reg) (nn : Byte) (s : State) : Result := .next (s.setV x (s.getV x + nn))

/-- `MOV Vx, Vy` (R162). -/
def execMov (x y : Reg) (s : State) : Result := .next (s.setV x (s.getV y))

/-- `OR Vx, Vy` (R163). -/
def execOr (x y : Reg) (s : State) : Result := .next (s.setV x (s.getV x ||| s.getV y))

/-- `AND Vx, Vy` (R164). -/
def execAnd (x y : Reg) (s : State) : Result := .next (s.setV x (s.getV x &&& s.getV y))

/-- `XOR Vx, Vy` (R165). -/
def execXor (x y : Reg) (s : State) : Result := .next (s.setV x (s.getV x ^^^ s.getV y))

/-- `ADD Vx, Vy` (R166). -/
def execAdd (x y : Reg) (s : State) : Result :=
  .next (s.writeFlagged x (s.getV x + s.getV y) (carryOf (s.getV x) (s.getV y)))

/-- `SUB Vx, Vy` (R167). -/
def execSub (x y : Reg) (s : State) : Result :=
  .next (s.writeFlagged x (s.getV x - s.getV y) (notBorrow (s.getV x) (s.getV y)))

/-- `SHR Vx, Vy` (R168). -/
def execShr (x y : Reg) (s : State) : Result :=
  .next (s.writeFlagged x (s.shiftSource x y >>> 1) (outRight (s.shiftSource x y)))

/-- `RSB Vx, Vy` (R169). -/
def execRsb (x y : Reg) (s : State) : Result :=
  .next (s.writeFlagged x (s.getV y - s.getV x) (notBorrow (s.getV y) (s.getV x)))

/-- `SHL Vx, Vy` (R170). -/
def execShl (x y : Reg) (s : State) : Result :=
  .next (s.writeFlagged x (s.shiftSource x y <<< 1) (outLeft (s.shiftSource x y)))

/-- `RND Vx, nn`: a fresh free byte and the mask (R175, decision D19; log entry 1). -/
def execRnd (x : Reg) (nn : Byte) (s : State) : Result := .next ((s.setV x (s.freshRnd &&& nn)).useRnd)

end Sys2Proof.Machine
end

