-- ==== Sys2Proof/Syntax.lean ====
section
/-! DEFINITION. The instructions: one constructor for each of the 50 rows of the opcode table (30_encoding.md R96), with the
operands of its format (R92) as typed fields, and the list of those operands as numbers in named fields (R91). -/

namespace Sys2Proof

/-- The instruction set (R96), in the order of the table. A register operand is a `Reg`; `nn` a byte; `nnn` 12 bits; `nnnn` the
16-bit operand word of the long form (R99). -/
inductive Instr where
  | halt
  | scd (n : BitVec 4)
  | scu (n : BitVec 4)
  | cls
  | ret
  | scr
  | scl
  | exit
  | lores
  | hires
  | jp (nnn : BitVec 12)
  | call (nnn : BitVec 12)
  | sei (x : Reg) (nn : Byte)
  | snei (x : Reg) (nn : Byte)
  | se (x y : Reg)
  | str (x y : Reg)
  | ldr (x y : Reg)
  | ldi (x : Reg) (nn : Byte)
  | addi (x : Reg) (nn : Byte)
  | mov (x y : Reg)
  | or (x y : Reg)
  | and (x y : Reg)
  | xor (x y : Reg)
  | add (x y : Reg)
  | sub (x y : Reg)
  | shr (x y : Reg)
  | rsb (x y : Reg)
  | shl (x y : Reg)
  | sne (x y : Reg)
  | idx (nnn : BitVec 12)
  | jpo (nnn : BitVec 12)
  | rnd (x : Reg) (nn : Byte)
  | draw (x y : Reg) (n : BitVec 4)
  | skp (x : Reg)
  | sknp (x : Reg)
  | idxl (nnnn : Word)
  | plane (x : BitVec 4)
  /-- The field `x` is decoded but ignored: "every `Fx02` is `AUDIO`" (R96); it is kept so that no bit of the word is lost. -/
  | audio (x : BitVec 4)
  | gdt (x : Reg)
  | waitk (x : Reg)
  | sdt (x : Reg)
  | sst (x : Reg)
  | addidx (x : Reg)
  | font (x : Reg)
  | bfont (x : Reg)
  | bcd (x : Reg)
  | stm (x : Reg)
  | ldm (x : Reg)
  | stf (x : Reg)
  | ldf (x : Reg)
  deriving DecidableEq, Repr

/-- The bit fields that hold operands (R91), and the operand word of the long form (R99). -/
inductive Field where
  | x | y | n | nn | nnn | nnnn
  deriving DecidableEq, Repr

/-- The width of each field in bits (R91, R99). -/
def Field.width : Field → Nat
  | .x | .y | .n => 4
  | .nn => 8
  | .nnn => 12
  | .nnnn => 16

/-- An operand as a number in a named field. -/
structure Operand where
  field : Field
  value : Nat
  deriving DecidableEq, Repr

/-- The operands of an instruction, field by field, as the format of its row lists them (R92, R96). -/
def Instr.operands : Instr → List Operand
  | .halt | .cls | .ret | .scr | .scl | .exit | .lores | .hires => []
  | .scd n | .scu n => [⟨.n, n.toNat⟩]
  | .jp a | .call a | .idx a | .jpo a => [⟨.nnn, a.toNat⟩]
  | .sei x b | .snei x b | .ldi x b | .addi x b | .rnd x b => [⟨.x, x.toNat⟩, ⟨.nn, b.toNat⟩]
  | .se x y | .str x y | .ldr x y | .mov x y | .or x y | .and x y | .xor x y | .add x y | .sub x y
  | .shr x y | .rsb x y | .shl x y | .sne x y => [⟨.x, x.toNat⟩, ⟨.y, y.toNat⟩]
  | .draw x y n => [⟨.x, x.toNat⟩, ⟨.y, y.toNat⟩, ⟨.n, n.toNat⟩]
  | .skp x | .sknp x | .plane x | .audio x | .gdt x | .waitk x | .sdt x | .sst x | .addidx x | .font x
  | .bfont x | .bcd x | .stm x | .ldm x | .stf x | .ldf x => [⟨.x, x.toNat⟩]
  | .idxl w => [⟨.nnnn, w.toNat⟩]

end Sys2Proof
end

