-- ==== Sys2Proof/WellFormed.lean ====
section
/-! DEFINITION. When an instruction is well-formed: every operand fits the field its row places it in (30_encoding.md R91, R92,
R101). The operand types already bound every field, so every `Instr` passes (Laws/Encoding.lean proves it); an operand as
a bare number can fail, one check for each field. -/

namespace Sys2Proof

/-- The check of one operand: its value fits its field. One arm for each field, so that each is a check of its own. -/
def Operand.wellFormed (o : Operand) : Bool :=
  match o.field with
  | .x => o.value < 2 ^ Field.x.width
  | .y => o.value < 2 ^ Field.y.width
  | .n => o.value < 2 ^ Field.n.width
  | .nn => o.value < 2 ^ Field.nn.width
  | .nnn => o.value < 2 ^ Field.nnn.width
  | .nnnn => o.value < 2 ^ Field.nnnn.width

/-- An instruction is well-formed when all its operands are. -/
def Instr.wellFormed (i : Instr) : Bool :=
  i.operands.all Operand.wellFormed

end Sys2Proof
end

