-- ==== Sys2Proof/Decode.lean ====
section
/-! DEFINITION. Decoding and encoding (30_encoding.md R90-R99, 40_fetch_dispatch.md R121, R122, R127). The opcode numbers stand
once, in `Instr.opcode`, as R94 advises; the decoder and the encoder both read them there. `dispatchWord` is the
document's dispatch precedence, written out beside the table decoder. -/

namespace Sys2Proof

/-- A row's fixed bits: a word `op` selects the row for which `op & mask = match` (R95). -/
structure Opcode where
  mask : Word
  value : Word
  deriving DecidableEq, Repr

/-- THE opcode table (R96): the mask and match of each row. The rows marked `gk` and `src+order` there are the standard CHIP-8,
SuperChip and XO-CHIP numbers by the spec's decisions D2, D3, UNVERIFIED (log entry 6). -/
def Instr.opcode : Instr → Opcode
  | .halt => ⟨0xFFFF, 0x0000⟩
  | .scd _ => ⟨0xFFF0, 0x00C0⟩
  | .scu _ => ⟨0xFFF0, 0x00D0⟩
  | .cls => ⟨0xFFFF, 0x00E0⟩
  | .ret => ⟨0xFFFF, 0x00EE⟩
  | .scr => ⟨0xFFFF, 0x00FB⟩
  | .scl => ⟨0xFFFF, 0x00FC⟩
  | .exit => ⟨0xFFFF, 0x00FD⟩
  | .lores => ⟨0xFFFF, 0x00FE⟩
  | .hires => ⟨0xFFFF, 0x00FF⟩
  | .jp _ => ⟨0xF000, 0x1000⟩
  | .call _ => ⟨0xF000, 0x2000⟩
  | .sei _ _ => ⟨0xF000, 0x3000⟩
  | .snei _ _ => ⟨0xF000, 0x4000⟩
  | .se _ _ => ⟨0xF00F, 0x5000⟩
  | .str _ _ => ⟨0xF00F, 0x5002⟩
  | .ldr _ _ => ⟨0xF00F, 0x5003⟩
  | .ldi _ _ => ⟨0xF000, 0x6000⟩
  | .addi _ _ => ⟨0xF000, 0x7000⟩
  | .mov _ _ => ⟨0xF00F, 0x8000⟩
  | .or _ _ => ⟨0xF00F, 0x8001⟩
  | .and _ _ => ⟨0xF00F, 0x8002⟩
  | .xor _ _ => ⟨0xF00F, 0x8003⟩
  | .add _ _ => ⟨0xF00F, 0x8004⟩
  | .sub _ _ => ⟨0xF00F, 0x8005⟩
  | .shr _ _ => ⟨0xF00F, 0x8006⟩
  | .rsb _ _ => ⟨0xF00F, 0x8007⟩
  | .shl _ _ => ⟨0xF00F, 0x800E⟩
  | .sne _ _ => ⟨0xF00F, 0x9000⟩
  | .idx _ => ⟨0xF000, 0xA000⟩
  | .jpo _ => ⟨0xF000, 0xB000⟩
  | .rnd _ _ => ⟨0xF000, 0xC000⟩
  | .draw _ _ _ => ⟨0xF000, 0xD000⟩
  | .skp _ => ⟨0xF0FF, 0xE09E⟩
  | .sknp _ => ⟨0xF0FF, 0xE0A1⟩
  | .idxl _ => ⟨0xFFFF, 0xF000⟩
  | .plane _ => ⟨0xF0FF, 0xF001⟩
  | .audio _ => ⟨0xF0FF, 0xF002⟩
  | .gdt _ => ⟨0xF0FF, 0xF007⟩
  | .waitk _ => ⟨0xF0FF, 0xF00A⟩
  | .sdt _ => ⟨0xF0FF, 0xF015⟩
  | .sst _ => ⟨0xF0FF, 0xF018⟩
  | .addidx _ => ⟨0xF0FF, 0xF01E⟩
  | .font _ => ⟨0xF0FF, 0xF029⟩
  | .bfont _ => ⟨0xF0FF, 0xF030⟩
  | .bcd _ => ⟨0xF0FF, 0xF033⟩
  | .stm _ => ⟨0xF0FF, 0xF055⟩
  | .ldm _ => ⟨0xF0FF, 0xF065⟩
  | .stf _ => ⟨0xF0FF, 0xF075⟩
  | .ldf _ => ⟨0xF0FF, 0xF085⟩

/-- The row claims the word: `op & mask = match` (R95). -/
def Opcode.claims (o : Opcode) (op : Word) : Bool := op &&& o.mask == o.value

/-! The bit fields of the instruction word (R17, R91). -/

/-- `fam = op[15:12]`. -/
def fieldFam (op : Word) : BitVec 4 := op.extractLsb' 12 4
/-- `x = op[11:8]`. -/
def fieldX (op : Word) : BitVec 4 := op.extractLsb' 8 4
/-- `y = op[7:4]`. -/
def fieldY (op : Word) : BitVec 4 := op.extractLsb' 4 4
/-- `n = op[3:0]`. -/
def fieldN (op : Word) : BitVec 4 := op.extractLsb' 0 4
/-- `nn = op[7:0]`. -/
def fieldNN (op : Word) : Byte := op.extractLsb' 0 8
/-- `nnn = op[11:0]`. -/
def fieldNNN (op : Word) : BitVec 12 := op.extractLsb' 0 12

/-- Rows 1 to 17 of the table, operands read from the fields of the word `op` (R92, R96). -/
def candidatesLow (op : Word) : List Instr :=
  [.halt, .scd (fieldN op), .scu (fieldN op), .cls, .ret, .scr, .scl, .exit, .lores, .hires,
   .jp (fieldNNN op), .call (fieldNNN op), .sei (fieldX op) (fieldNN op), .snei (fieldX op) (fieldNN op),
   .se (fieldX op) (fieldY op), .str (fieldX op) (fieldY op), .ldr (fieldX op) (fieldY op)]

/-- Rows 18 to 35. -/
def candidatesMid (op : Word) : List Instr :=
  [.ldi (fieldX op) (fieldNN op), .addi (fieldX op) (fieldNN op), .mov (fieldX op) (fieldY op),
   .or (fieldX op) (fieldY op), .and (fieldX op) (fieldY op), .xor (fieldX op) (fieldY op),
   .add (fieldX op) (fieldY op), .sub (fieldX op) (fieldY op), .shr (fieldX op) (fieldY op),
   .rsb (fieldX op) (fieldY op), .shl (fieldX op) (fieldY op), .sne (fieldX op) (fieldY op),
   .idx (fieldNNN op), .jpo (fieldNNN op), .rnd (fieldX op) (fieldNN op),
   .draw (fieldX op) (fieldY op) (fieldN op), .skp (fieldX op), .sknp (fieldX op)]

/-- Rows 36 to 50; the long form takes the word after `op` as its operand (R99). -/
def candidatesHigh (op next : Word) : List Instr :=
  [.idxl next, .plane (fieldX op), .audio (fieldX op), .gdt (fieldX op), .waitk (fieldX op), .sdt (fieldX op),
   .sst (fieldX op), .addidx (fieldX op), .font (fieldX op), .bfont (fieldX op), .bcd (fieldX op),
   .stm (fieldX op), .ldm (fieldX op), .stf (fieldX op), .ldf (fieldX op)]

/-- The instruction of each of the 50 rows, read from the words `op` and `next`, in the order of the table (R96). -/
def candidates (op next : Word) : List Instr :=
  candidatesLow op ++ (candidatesMid op ++ candidatesHigh op next)

/-- The decoder of one instruction word `op` followed by the word `next`, by the table (R95, R127): the instruction of the row
that claims `op`, and `none` for an unknown opcode (R97). -/
def decodeOp (op next : Word) : Option Instr :=
  (candidates op next).find? fun i => i.opcode.claims op

/-- The length of an instruction in bytes: 2, and 4 for the long form (R90, R99). -/
def Instr.length : Instr → Nat
  | .idxl _ => 4
  | _ => 2

/-- Why bytes are no instruction. -/
inductive DecodeError where
  /-- No row of the table claims the word (R97); the machine halts on it (R123). -/
  | unknownOpcode (op : Word)
  /-- The byte list ends inside the instruction. Memory has no end (R65), so no fetch meets this (log entry 24). -/
  | truncated
  deriving DecidableEq, Repr

/-- The first two bytes of a list as a big-endian word; 0 where they are missing. -/
def wordOf : List Byte → Word
  | hi :: lo :: _ => hi ++ lo
  | _ => 0

/-- The decoder on bytes, high byte first (R90): the instruction and the bytes after it, or the reason by name. -/
def decode : List Byte → Except DecodeError (Instr × List Byte)
  | hi :: lo :: rest =>
    match decodeOp (hi ++ lo) (wordOf rest) with
    | none => .error (.unknownOpcode (hi ++ lo))
    | some i =>
      if rest.length + 2 < i.length then .error .truncated else .ok (i, rest.drop (i.length - 2))
  | _ => .error .truncated

/-! The dispatch precedence of R121 with the sub-dispatches of R122, test by test. -/

/-- ALU sub-dispatch, keyed by the low nibble (R122). -/
def dispatchAlu (op : Word) : Option Instr :=
  let x := fieldX op
  let y := fieldY op
  let n := fieldN op
  if n = 0 then some (.mov x y) else if n = 1 then some (.or x y) else if n = 2 then some (.and x y)
  else if n = 3 then some (.xor x y) else if n = 4 then some (.add x y) else if n = 5 then some (.sub x y)
  else if n = 6 then some (.shr x y) else if n = 7 then some (.rsb x y) else if n = 0xE then some (.shl x y)
  else none

/-- Misc sub-dispatch, keyed by the low byte (R122). -/
def dispatchMisc (op : Word) : Option Instr :=
  let x := fieldX op
  let nn := fieldNN op
  if nn = 0x01 then some (.plane x) else if nn = 0x02 then some (.audio x) else if nn = 0x07 then some (.gdt x)
  else if nn = 0x0A then some (.waitk x) else if nn = 0x15 then some (.sdt x) else if nn = 0x18 then some (.sst x)
  else if nn = 0x1E then some (.addidx x) else if nn = 0x29 then some (.font x)
  else if nn = 0x30 then some (.bfont x) else if nn = 0x33 then some (.bcd x) else if nn = 0x55 then some (.stm x)
  else if nn = 0x65 then some (.ldm x) else if nn = 0x75 then some (.stf x) else if nn = 0x85 then some (.ldf x)
  else none

/-- Canonical dispatch by family, for what the earlier tests leave (R121 item 5). Families 0 and E have no entry. -/
def dispatchCanonical (op : Word) : Option Instr :=
  let f := fieldFam op
  if f = 0x1 then some (.jp (fieldNNN op)) else if f = 0x2 then some (.call (fieldNNN op))
  else if f = 0x3 then some (.sei (fieldX op) (fieldNN op)) else if f = 0x4 then some (.snei (fieldX op) (fieldNN op))
  else if f = 0x5 then some (.se (fieldX op) (fieldY op)) else if f = 0x6 then some (.ldi (fieldX op) (fieldNN op))
  else if f = 0x7 then some (.addi (fieldX op) (fieldNN op)) else if f = 0x8 then dispatchAlu op
  else if f = 0x9 then some (.sne (fieldX op) (fieldY op)) else if f = 0xA then some (.idx (fieldNNN op))
  else if f = 0xB then some (.jpo (fieldNNN op)) else if f = 0xC then some (.rnd (fieldX op) (fieldNN op))
  else if f = 0xD then some (.draw (fieldX op) (fieldY op) (fieldN op)) else if f = 0xF then dispatchMisc op
  else none

/-- The whole dispatch (R121): exact matches, scrolls, register ranges, family 9, then the canonical dispatch; the first test
that matches claims the word. -/
def dispatchWord (op next : Word) : Option Instr :=
  if op = 0x0000 then some .halt else if op = 0x00FD then some .exit else if op = 0x00E0 then some .cls
  else if op = 0x00EE then some .ret else if op &&& 0xF0FF = 0xE09E then some (.skp (fieldX op))
  else if op &&& 0xF0FF = 0xE0A1 then some (.sknp (fieldX op)) else if op = 0x00FE then some .lores
  else if op = 0x00FF then some .hires else if op = 0xF000 then some (.idxl next)
  else if op &&& 0xFFF0 = 0x00C0 then some (.scd (fieldN op)) else if op &&& 0xFFF0 = 0x00D0 then some (.scu (fieldN op))
  else if op = 0x00FB then some .scr else if op = 0x00FC then some .scl
  else if fieldFam op = 5 ∧ fieldN op ≠ 0 then
    if fieldN op = 2 then some (.str (fieldX op) (fieldY op))
    else if fieldN op = 3 then some (.ldr (fieldX op) (fieldY op)) else none
  else if fieldFam op = 9 ∧ fieldN op ≠ 0 then none
  else dispatchCanonical op

/-- The list of unknown words, family by family, as R97 tables it. -/
def unknownWord (op : Word) : Bool :=
  let n := fieldN op
  let nn := fieldNN op
  if fieldFam op = 0 then
    !(op ∈ [0x0000, 0x00E0, 0x00EE, 0x00FB, 0x00FC, 0x00FD, 0x00FE, 0x00FF] ∨
      (0x00C0 ≤ op ∧ op ≤ 0x00CF) ∨ (0x00D0 ≤ op ∧ op ≤ 0x00DF))
  else if fieldFam op = 5 then !(n ∈ [0, 2, 3])
  else if fieldFam op = 8 then n ∈ [8, 9, 0xA, 0xB, 0xC, 0xD, 0xF]
  else if fieldFam op = 9 then n ≠ 0
  else if fieldFam op = 0xE then !(nn ∈ [0x9E, 0xA1])
  else if fieldFam op = 0xF then
    op ≠ 0xF000 && !(nn ∈ [0x01, 0x02, 0x07, 0x0A, 0x15, 0x18, 0x1E, 0x29, 0x30, 0x33, 0x55, 0x65, 0x75, 0x85])
  else false

/-! The encoder, written from the same table (R92, R96, R101). -/

/-- The lowest bit of each field in the instruction word (R91). -/
def Field.lo : Field → Nat
  | .x => 8
  | .y => 4
  | .n | .nn | .nnn | .nnnn => 0

/-- An operand's bits in place in the instruction word; the operand of the long form has none there (R99). -/
def Operand.inWord (o : Operand) : Word :=
  match o.field with
  | .nnnn => 0
  | f => BitVec.ofNat 16 o.value <<< f.lo

/-- The instruction word: the row's match bits and every operand in its field. -/
def encodeWord (i : Instr) : Word :=
  i.operands.foldl (fun w o => w ||| o.inWord) i.opcode.value

/-- A word as two bytes, high byte first (R90). -/
def wordBytes (w : Word) : List Byte := [w.extractLsb' 8 8, w.extractLsb' 0 8]

/-- The encoder: the bytes of an instruction, two or, for the long form, four (R90, R99). -/
def encode (i : Instr) : List Byte :=
  match i with
  | .idxl nnnn => wordBytes (encodeWord i) ++ wordBytes nnnn
  | _ => wordBytes (encodeWord i)

/-! The numbering of opcode_table.json: bit 0 is the least significant bit of the first word, the second word is bits 31..16. -/

/-- The first word of a table number, bits at or above `nbits` being 0. -/
def tableOp (nbits w : Nat) : Word := BitVec.ofNat 16 (w % 2 ^ nbits)

/-- The second word of a table number. -/
def tableNext (nbits w : Nat) : Word := BitVec.ofNat 16 (w % 2 ^ nbits / 65536)

/-- What the decoder reads from an instruction whose bits, numbered as the opcode table numbers them, are `w`. -/
def decodeTableWord (nbits w : Nat) : Option Instr :=
  match decode (wordBytes (tableOp nbits w) ++ wordBytes (tableNext nbits w)) with
  | .ok (i, _) => some i
  | .error _ => none

end Sys2Proof
end

