-- ==== Sys2Proof/Machine/Control.lean ====
section
/-! DEFINITION. Control transfer (41_control_transfer.md R140-R151). Each meaning runs after the fetch advance, so `s.pc` is the
address of the next instruction (R140). -/

namespace Sys2Proof.Machine

/-- `RET`: pop into the pc, or the StackUnderflow halt when no entry is valid (R141, R264). -/
def execRet (s : State) : Result :=
  .next (match s.pop with
    | some t => t
    | none => s.raiseHalt .stackUnderflow (encodeWord .ret))

/-- `JP nnn` (R142). -/
def execJp (nnn : BitVec 12) (s : State) : Result := .next (s.jump (addr12 nnn))

/-- `CALL nnn`: push the advanced pc and jump, or the StackOverflow halt when the stack is full (R143, R263). -/
def execCall (nnn : BitVec 12) (s : State) : Result :=
  .next (match s.push with
    | some t => t.jump (addr12 nnn)
    | none => s.raiseHalt .stackOverflow (encodeWord (.call nnn)))

/-- `JPO nnn`: jump with the offset of the quirk-selected register (R144). -/
def execJpo (nnn : BitVec 12) (s : State) : Result :=
  .next (s.jump (addr12 nnn + (s.getV (s.jumpReg nnn)).zeroExtend 16))

/-- `SEI Vx, nn` (R145). -/
def execSei (x : Reg) (nn : Byte) (s : State) : Result := .next (s.skipIf (s.getV x == nn))

/-- `SNEI Vx, nn` (R146). -/
def execSnei (x : Reg) (nn : Byte) (s : State) : Result := .next (s.skipIf (s.getV x != nn))

/-- `SE Vx, Vy` (R147). -/
def execSe (x y : Reg) (s : State) : Result := .next (s.skipIf (s.getV x == s.getV y))

/-- `SNE Vx, Vy` (R148). -/
def execSne (x y : Reg) (s : State) : Result := .next (s.skipIf (s.getV x != s.getV y))

/-- `SKP Vx` (R149). -/
def execSkp (x : Reg) (s : State) : Result := .next (s.skipIf (s.key (lowNibble (s.getV x))))

/-- `SKNP Vx` (R150). -/
def execSknp (x : Reg) (s : State) : Result := .next (s.skipIf (!s.key (lowNibble (s.getV x))))

end Sys2Proof.Machine
end

