-- ==== Sys2Proof/Machine/Halts.lean ====
section
/-! DEFINITION. The halt instructions (40_fetch_dispatch.md R124, R125). Each meaning runs after the fetch advance of the pc. -/

namespace Sys2Proof.Machine

/-- `HALT`: `raise Halt(Exit, 0x0000)` (R124). -/
def execHalt (s : State) : Result := .next (s.raiseHalt .exit (encodeWord .halt))

/-- `EXIT`: `raise Halt(Exit, 0x00FD)` (R125). -/
def execExit (s : State) : Result := .next (s.raiseHalt .exit (encodeWord .exit))

end Sys2Proof.Machine
end

