-- ==== Sys2Proof/Machine/IndexMem.lean ====
section
/-! DEFINITION. Index register, loads and stores, flag bank and audio pattern (43_memory_index.md R190-R205). No access can fault
(R195), and only `STM` and `LDM` may advance `I` (R196). -/

namespace Sys2Proof.Machine

/-- `IDX nnn` (R190). -/
def execIdx (nnn : BitVec 12) (s : State) : Result := .next { s with idx := addr12 nnn }

/-- `IDXL nnnn`: load the operand word and step over it. The decoder read it from the pc this meaning is given (R191, decision
D12; log entry 13). -/
def execIdxl (nnnn : Word) (s : State) : Result := .next { s with idx := nnnn, pc := s.pc + 2 }

/-- `ADDIDX Vx`: no flag (R192, decision D31). -/
def execAddidx (x : Reg) (s : State) : Result := .next { s with idx := s.idx + (s.getV x).zeroExtend 16 }

/-- `FONT Vx` (R193, decision D8). -/
def execFont (x : Reg) (s : State) : Result := .next { s with idx := smallFontAddr (lowNibble (s.getV x)) }

/-- `BFONT Vx` (R194, decision D8). -/
def execBfont (x : Reg) (s : State) : Result := .next { s with idx := largeFontAddr (lowNibble (s.getV x)) }

/-- `BCD Vx` (R197). -/
def execBcd (x : Reg) (s : State) : Result := .next (s.storeBytes s.idx (bcdDigits (s.getV x)))

/-- `STM Vx` (R198). -/
def execStm (x : Reg) (s : State) : Result :=
  .next ((s.storeBytes s.idx ((regsUpTo x).map s.getV)).advanceIndex x)

/-- `LDM Vx` (R199). -/
def execLdm (x : Reg) (s : State) : Result := .next ((s.loadRegs s.idx (regsUpTo x)).advanceIndex x)

/-- `STR Vx, Vy`: `I` unchanged (R200, decision D21). -/
def execStr (x y : Reg) (s : State) : Result := .next (s.storeBytes s.idx ((regSpan x y).map s.getV))

/-- `LDR Vx, Vy`: `I` unchanged (R201, decision D21). -/
def execLdr (x y : Reg) (s : State) : Result := .next (s.loadRegs s.idx (regSpan x y))

/-- `STF Vx`: `flags[0..min(x,7)] <- v[0..min(x,7)]` (R203, decision D9). -/
def execStf (x : Reg) (s : State) : Result :=
  .next { s with flags := Vector.ofFn fun z : Fin 8 =>
    if z.val ≤ flagLast x then s.getV (BitVec.ofNat 4 z.val) else s.flags[z] }

/-- `LDF Vx`: `v[0..min(x,7)] <- flags[0..min(x,7)]` (R204, decision D9). -/
def execLdf (x : Reg) (s : State) : Result :=
  .next { s with v := Vector.ofFn fun z : Fin 16 =>
    if h : z.val < 8 ∧ z.val ≤ flagLast x then s.flags[z.val]'h.1 else s.v[z] }

/-- `AUDIO`: 16 bytes from `I` into the pattern buffer; the field `x` is ignored (R205, decision D30). -/
def execAudio (_x : BitVec 4) (s : State) : Result :=
  .next { s with pattern := Vector.ofFn fun z : Fin 16 => s.readByte (s.ea z.val) }

end Sys2Proof.Machine
end

