-- ==== Sys2Proof/Machine/Display.lean ====
section
/-! DEFINITION. The display compositor's operations: cells, the active area, clearing, scrolling and the sprite draw
(10_state.md R30-R35, 44_display.md R220-R231). Column 0 is the left edge, row 0 the top (R32, decision D17). -/

namespace Sys2Proof.Machine

/-! ## Cells -/

/-- A plane's bit of a cell, `p[k]` (R229). -/
def Cell.bit (c : Cell) : PlaneId → Bool
  | .one => c.p1
  | .two => c.p2

/-- The cell with a plane's bit inverted. -/
def Cell.flip (c : Cell) : PlaneId → Cell
  | .one => { c with p1 := !c.p1 }
  | .two => { c with p2 := !c.p2 }

/-- The exported value of a cell, `p2 ++ p1` (R34, decision D17). -/
def Cell.code (c : Cell) : BitVec 2 := BitVec.ofBool c.p2 ++ BitVec.ofBool c.p1

/-- `disp[r][c]` for the cell at column `c`, row `r`; clear outside the grid, where no instruction looks. -/
def Display.cell (d : Display) (c r : Nat) : Cell :=
  if h : r < 64 ∧ c < 128 then (d[r]'h.1)[c]'h.2 else Cell.clear

/-- The display whose cell at column `c`, row `r` is `f c r`. Irreducible, so that no unification computes its 8192 cells; its
laws are in Laws/Display.lean. -/
@[irreducible] def Display.tabulate (f : Nat → Nat → Cell) : Display :=
  Vector.ofFn fun r : Fin 64 => Vector.ofFn fun c : Fin 128 => f c.val r.val

/-- The display with plane `k`'s bit of one cell inverted: XOR of a set sprite bit (R231). -/
def Display.flip (d : Display) (k : PlaneId) (c r : Nat) : Display :=
  if h : r < 64 ∧ c < 128 then d.set r ((d[r]'h.1).set c ((d.cell c r).flip k) h.2) h.1 else d

/-! ## The active area and the plane mask -/

/-- `W`, the active width (R17). -/
def State.width (s : State) : Nat := if s.hires then 128 else 64

/-- `H`, the active height (R17). -/
def State.height (s : State) : Nat := if s.hires then 64 else 32

/-- Plane `k` is selected: bit `k-1` of `plane` is 1 (R229, decision D28). -/
def State.selected (s : State) : PlaneId → Bool
  | .one => s.plane.getLsbD 0
  | .two => s.plane.getLsbD 1

/-! ## Clearing -/

/-- `ClearAll()`: both planes of all 8192 cells (R220). -/
def State.clearAll (s : State) : State := { s with disp := Display.blank }

/-! ## Scrolling -/

/-- Where a scroll takes the new bit of a cell from: a column and row, or nothing for a vacated cell (R221). -/
abbrev ScrollSource := Nat → Nat → Option (Nat × Nat)

/-- Down by `n` rows (R222). -/
def fromAbove (n : Nat) : ScrollSource := fun c r => if n ≤ r then some (c, r - n) else none

/-- Up by `n` rows in an area of height `h` (R223). -/
def fromBelow (h n : Nat) : ScrollSource := fun c r => if r + n < h then some (c, r + n) else none

/-- Right by `n` columns (R224). -/
def fromLeft (n : Nat) : ScrollSource := fun c r => if n ≤ c then some (c - n, r) else none

/-- Left by `n` columns in an area of width `w` (R225). -/
def fromRight (w n : Nat) : ScrollSource := fun c r => if c + n < w then some (c + n, r) else none

/-- The bit a scroll moves: the old bit of the source cell, 0 for a vacated cell (R221). -/
def Display.movedBit (d : Display) (k : PlaneId) : Option (Nat × Nat) → Bool
  | some (c, r) => (d.cell c r).bit k
  | none => false

/-- A scroll: in each selected plane, every active cell takes its source's old bit, all at once; a plane not selected and cells
outside the active area keep theirs (R221). -/
def State.scroll (s : State) (src : ScrollSource) : State :=
  { s with disp := Display.tabulate fun c r =>
      let old := s.disp.cell c r
      if c < s.width ∧ r < s.height then
        { p1 := if s.selected .one then s.disp.movedBit .one (src c r) else old.p1
          p2 := if s.selected .two then s.disp.movedBit .two (src c r) else old.p2 }
      else old }

/-! ## Sprites -/

/-- `RS`, the rows of a sprite: 16 for `n = 0` (R230). -/
def spriteRows (n : BitVec 4) : Nat := if n = 0 then 16 else n.toNat

/-- `CS`, the columns of a sprite (R230). -/
def spriteCols (n : BitVec 4) : Nat := if n = 0 then 16 else 8

/-- `BPR`, the bytes of a sprite row (R230). -/
def spriteRowBytes (n : BitVec 4) : Nat := if n = 0 then 2 else 1

/-- The bytes of a sprite for one plane, `RS * BPR` (R230). -/
def spriteBytes (n : BitVec 4) : Nat := spriteRows n * spriteRowBytes n

/-- The sprite bit for row `a`, column `b` of the data at `ptr`, most significant bit first (R230). -/
def State.spriteBit (s : State) (n : BitVec 4) (ptr : Word) (a b : Nat) : Bool :=
  (s.readByte (ptr + BitVec.ofNat 16 (a * spriteRowBytes n + b / 8))).getLsbD (7 - b % 8)

/-- A pixel at the un-wrapped coordinate is skipped: the clipping quirk, and outside the active area (R231, decision D16). -/
def State.clipped (s : State) (ux uy : Nat) : Bool :=
  s.quirks.clip && (s.width ≤ ux || s.height ≤ uy)

/-- One set sprite bit at the un-wrapped coordinate: the display and the collision so far, after it (R231). -/
def State.plot (s : State) (k : PlaneId) (ux uy : Nat) (acc : Display × Bool) : Display × Bool :=
  if s.clipped ux uy then acc
  else
    let tx := ux % s.width
    let ty := uy % s.height
    (acc.1.flip k tx ty, acc.2 || (acc.1.cell tx ty).bit k)

/-- The rows and columns of a sprite, `(a, b)`, row by row (R231). -/
def spritePoints (n : BitVec 4) : List (Nat × Nat) :=
  (List.range (spriteRows n)).flatMap fun a => (List.range (spriteCols n)).map fun b => (a, b)

/-- One composite pass over a plane: every set bit of the sprite at `ptr` drawn from the origin (R231). -/
def State.drawPass (s : State) (n : BitVec 4) (ox oy : Nat) (acc : Display × Bool) (pass : PlaneId × Word) : Display × Bool :=
  (spritePoints n).foldl
    (fun acc p => if s.spriteBit n pass.2 p.1 p.2 then s.plot pass.1 (ox + p.2) (oy + p.1) acc else acc) acc

/-- The passes of a draw: the selected planes, plane 1 first, each with the address of its sprite data; a second pass reads the
bytes after the first's (R231, decision D15). -/
def State.drawPasses (s : State) (n : BitVec 4) : List (PlaneId × Word) :=
  (if s.selected .one then [(.one, s.idx)] else []) ++
  (if s.selected .two then
    [(.two, if s.selected .one then s.idx + BitVec.ofNat 16 (spriteBytes n) else s.idx)] else [])

/-- The whole draw: the display after it and whether any pass cleared a set pixel (R231). -/
def State.drawSprite (s : State) (n : BitVec 4) (ox oy : Nat) : Display × Bool :=
  (s.drawPasses n).foldl (s.drawPass n ox oy) (s.disp, false)

end Sys2Proof.Machine
end

