-- ==== Sys2Proof/Machine/Screen.lean ====
section
/-! DEFINITION. The display instructions (44_display.md R220-R233). None changes `I` or the pc beyond the fetch advance, and only
`DRAW` writes `v[15]` (R229). -/

namespace Sys2Proof.Machine

/-- `CLS`: both planes, whatever the mask (R220, decision D29). -/
def execCls (s : State) : Result := .next s.clearAll

/-- `LORES` (R226). -/
def execLores (s : State) : Result := .next { s.clearAll with hires := false }

/-- `HIRES` (R227). -/
def execHires (s : State) : Result := .next { s.clearAll with hires := true }

/-- `SCD n` (R222). -/
def execScd (n : BitVec 4) (s : State) : Result := .next (s.scroll (fromAbove n.toNat))

/-- `SCU n` (R223). -/
def execScu (n : BitVec 4) (s : State) : Result := .next (s.scroll (fromBelow s.height n.toNat))

/-- `SCR`: 4 columns (R224). -/
def execScr (s : State) : Result := .next (s.scroll (fromLeft 4))

/-- `SCL`: 4 columns (R225). -/
def execScl (s : State) : Result := .next (s.scroll (fromRight s.width 4))

/-- `PLANE x`: the field itself, not the register (R228, decision D7; log entry 8). -/
def execPlane (x : BitVec 4) (s : State) : Result := .next { s with plane := x.extractLsb' 0 2 }

/-- `DRAW Vx, Vy, n`: the coordinates are read before the flag is written; `v[15]` becomes the collision (R231, decisions D15,
D16; log entry 15). -/
def execDraw (x y : Reg) (n : BitVec 4) (s : State) : Result :=
  let drawn := s.drawSprite n (s.getV x).toNat (s.getV y).toNat
  .next ({ s with disp := drawn.1 }.setV vF (flagByte drawn.2))

end Sys2Proof.Machine
end

