-- ==== Sys2Proof/Machine/TimersKeys.lean ====
section
/-! DEFINITION. Timer access and wait-for-key (45_timers_keys.md R250-R254). The host events that run the timers and end a wait are
in Machine/Events.lean. -/

namespace Sys2Proof.Machine

/-- `GDT Vx` (R251). -/
def execGdt (x : Reg) (s : State) : Result := .next (s.setV x s.dt)

/-- `WAITK Vx`: enter the wait; only a later key-down writes `v[x]` (R253). -/
def execWaitk (x : Reg) (s : State) : Result := .next { s with waiting := true, waitReg := x }

/-- `SDT Vx` (R252). -/
def execSdt (x : Reg) (s : State) : Result := .next { s with dt := s.getV x }

/-- `SST Vx` (R254). -/
def execSst (x : Reg) (s : State) : Result := .next { s with st := s.getV x }

end Sys2Proof.Machine
end

