-- ==== Sys2Proof/Machine/Dispatch.lean ====
section
/-! DEFINITION. The dispatch: one arm for each constructor of `Instr`, each one call of its meaning (40_fetch_dispatch.md R121). -/

namespace Sys2Proof.Machine

/-- Run one instruction; the pc is already past its first word (R120, R140). -/
def exec (i : Instr) (s : State) : Host.Outcome State Fault Refusal :=
  match i with
  | .halt => Sys2Proof.Machine.execHalt s
  | .scd n => Sys2Proof.Machine.execScd n s
  | .scu n => Sys2Proof.Machine.execScu n s
  | .cls => Sys2Proof.Machine.execCls s
  | .ret => Sys2Proof.Machine.execRet s
  | .scr => Sys2Proof.Machine.execScr s
  | .scl => Sys2Proof.Machine.execScl s
  | .exit => Sys2Proof.Machine.execExit s
  | .lores => Sys2Proof.Machine.execLores s
  | .hires => Sys2Proof.Machine.execHires s
  | .jp nnn => Sys2Proof.Machine.execJp nnn s
  | .call nnn => Sys2Proof.Machine.execCall nnn s
  | .sei x nn => Sys2Proof.Machine.execSei x nn s
  | .snei x nn => Sys2Proof.Machine.execSnei x nn s
  | .se x y => Sys2Proof.Machine.execSe x y s
  | .str x y => Sys2Proof.Machine.execStr x y s
  | .ldr x y => Sys2Proof.Machine.execLdr x y s
  | .ldi x nn => Sys2Proof.Machine.execLdi x nn s
  | .addi x nn => Sys2Proof.Machine.execAddi x nn s
  | .mov x y => Sys2Proof.Machine.execMov x y s
  | .or x y => Sys2Proof.Machine.execOr x y s
  | .and x y => Sys2Proof.Machine.execAnd x y s
  | .xor x y => Sys2Proof.Machine.execXor x y s
  | .add x y => Sys2Proof.Machine.execAdd x y s
  | .sub x y => Sys2Proof.Machine.execSub x y s
  | .shr x y => Sys2Proof.Machine.execShr x y s
  | .rsb x y => Sys2Proof.Machine.execRsb x y s
  | .shl x y => Sys2Proof.Machine.execShl x y s
  | .sne x y => Sys2Proof.Machine.execSne x y s
  | .idx nnn => Sys2Proof.Machine.execIdx nnn s
  | .jpo nnn => Sys2Proof.Machine.execJpo nnn s
  | .rnd x nn => Sys2Proof.Machine.execRnd x nn s
  | .draw x y n => Sys2Proof.Machine.execDraw x y n s
  | .skp x => Sys2Proof.Machine.execSkp x s
  | .sknp x => Sys2Proof.Machine.execSknp x s
  | .idxl nnnn => Sys2Proof.Machine.execIdxl nnnn s
  | .plane x => Sys2Proof.Machine.execPlane x s
  | .audio x => Sys2Proof.Machine.execAudio x s
  | .gdt x => Sys2Proof.Machine.execGdt x s
  | .waitk x => Sys2Proof.Machine.execWaitk x s
  | .sdt x => Sys2Proof.Machine.execSdt x s
  | .sst x => Sys2Proof.Machine.execSst x s
  | .addidx x => Sys2Proof.Machine.execAddidx x s
  | .font x => Sys2Proof.Machine.execFont x s
  | .bfont x => Sys2Proof.Machine.execBfont x s
  | .bcd x => Sys2Proof.Machine.execBcd x s
  | .stm x => Sys2Proof.Machine.execStm x s
  | .ldm x => Sys2Proof.Machine.execLdm x s
  | .stf x => Sys2Proof.Machine.execStf x s
  | .ldf x => Sys2Proof.Machine.execLdf x s

end Sys2Proof.Machine
end

