-- ==== Sys2Proof/Machine/Fetch.lean ====
section
/-! DEFINITION. Fetching an instruction (40_fetch_dispatch.md R120, R123): the word at the pc and, for the long form only, the word
after it. `Machine/Step.lean` calls these. -/

namespace Sys2Proof.Machine

/-- The instruction word, `MemRead(pc, 2)` (R120). -/
def State.fetchOp (s : State) : Word := s.readWord s.pc

/-- The word after it, which only `IDXL` uses (R191). Reading memory has no effect (R69), so reading it at every fetch is not
observable (log entry 13). -/
def State.fetchNext (s : State) : Word := s.readWord (s.pc + 2)

/-- The instruction at the pc, or `none` for an unknown opcode (R95, R120). -/
def State.fetchInstr (s : State) : Option Instr := decodeOp s.fetchOp s.fetchNext

/-- An unknown opcode halts with the raw word, the pc advanced (R123, R262). -/
def State.haltUnknown (s : State) : State := s.advancePc.raiseHalt .unknownOpcode s.fetchOp

/-- The state with two words stored where the next instruction is fetched, high bytes first (R90). -/
def State.placeWords (s : State) (op next : Word) : State :=
  s.storeBytes s.pc (wordBytes op ++ wordBytes next)

end Sys2Proof.Machine
end

