-- ==== Sys2Proof/Machine/Step.lean ====
section
/-! DEFINITION. The Step event (40_fetch_dispatch.md R120, R126), and where the host places an instruction to be fetched next. -/

namespace Sys2Proof.Machine

/-- One Step: nothing while halted or waiting (R126); else fetch, advance the pc by 2, and execute the instruction or halt on an
unknown opcode (R120, R123). -/
def step (s : State) : Host.Outcome State Fault Refusal :=
  if s.stalled then .next s
  else
    match s.fetchInstr with
    | some i => exec i s.advancePc
    | none => .next s.haltUnknown

/-- The state with the instruction whose bits are `w`, numbered as the opcode table numbers them, stored at the pc (log entry 4).
The bits at or above `nbits`, and so the operand word of a one-word number, are 0. -/
def State.withFetchWord (s : State) (nbits w : Nat) : State :=
  s.placeWords (tableOp nbits w) (tableNext nbits w)

end Sys2Proof.Machine
end

