-- ==== Sys2Proof/Machine/Reset.lean ====
section
/-! DEFINITION. The Reset event (70_reset_and_hazards.md R300, R301): the machine built from the quirks, the two font tables and
the program the host supplies (00_scope.md R7). -/

namespace Sys2Proof.Machine

/-- The reset image parameters (R6, R7) with the spec's constraints on their sizes (R301, decision D13): an image that breaks
them cannot be built (log entry 21). -/
structure ResetImage where
  quirks : Quirks
  /-- 16 glyphs of 5 bytes. -/
  fontSmall : Vector Byte 80
  /-- `N_BIG` glyphs of 10 bytes. -/
  fontLarge : List (Vector Byte 10)
  program : List Byte
  fontLarge_fits : 10 * fontLarge.length ≤ 432
  program_fits : program.length ≤ 65024
  deriving DecidableEq, Repr

/-- The large font as one run of bytes. -/
def ResetImage.fontLargeBytes (img : ResetImage) : List Byte := img.fontLarge.flatMap fun g => g.toList

/-- Memory after Reset: zeros, then the small font at 0x000, the large font at 0x050, the program at 0x200 (R301). -/
def ResetImage.memory (img : ResetImage) : Memory :=
  ((Memory.load [] 0x000 img.fontSmall.toList).load 0x050 img.fontLargeBytes).load 0x200 img.program

/-- The state after Reset (R44, R300): every register as `State.reset` has it, the given quirks, and the loaded memory. -/
def State.boot (img : ResetImage) : State :=
  { State.reset with quirks := img.quirks, mem := img.memory }

end Sys2Proof.Machine
end

