-- ==== Sys2Proof/Machine/Events.lean ====
section
/-! DEFINITION. The events of the interface (00_scope.md R10, R11; 60_exceptions.md R269-R275): the host's Reset, Tick, KeyDown,
KeyUp and Sample beside the core's Step. Each is atomic; which comes next is the host's choice (log entry 5). -/

namespace Sys2Proof.Machine

/-- A timer's decrement with its floor at 0 (R270, decision D10). -/
def countDown (t : Byte) : Byte := if t = 0 then 0 else t - 1

/-- `Tick()`: both timers, unless waiting; also when halted (R270). -/
def State.tick (s : State) : State :=
  if s.waiting then s else { s with dt := countDown s.dt, st := countDown s.st }

/-- `KeyDown(k)`: the key is pressed, and a wait ends with the code in the target register (R272, decision D18). -/
def State.keyDown (s : State) (k : BitVec 4) : State :=
  if s.waiting then { (s.setKey k true).setV s.waitReg (k.zeroExtend 8) with waiting := false }
  else s.setKey k true

/-- `KeyUp(k)` (R273, decision D18). -/
def State.keyUp (s : State) (k : BitVec 4) : State := s.setKey k false

/-- What the host reads (R11, R274). `cells` is `disp_cell` of the active area, row by row. -/
structure Outputs where
  cells : List (List (BitVec 2))
  hires : Bool
  dt : Byte
  st : Byte
  pattern : Vector Byte 16
  halted : Bool
  haltCause : BitVec 3
  haltOp : Word
  waiting : Bool
  deriving DecidableEq, Repr

/-- `disp_cell(c, r)` (R35). -/
def State.dispCell (s : State) (c r : Nat) : BitVec 2 := (s.disp.cell c r).code

/-- `Sample`: the outputs, a pure function of the state (R11, R274). -/
def State.sample (s : State) : Outputs where
  cells := (List.range s.height).map fun r => (List.range s.width).map fun c => s.dispCell c r
  hires := s.hires
  dt := s.dt
  st := s.st
  pattern := s.pattern
  halted := s.halted
  haltCause := s.haltCause.code
  haltOp := s.haltOp
  waiting := s.waiting

/-- The events (R10). A key code is 4 bits wide, so no other can be delivered (R11, decision D35). -/
inductive Event where
  | reset (img : ResetImage)
  | step
  | tick
  | keyDown (k : BitVec 4)
  | keyUp (k : BitVec 4)
  | sample
  deriving DecidableEq, Repr

/-- One event delivered to the machine. Reset keeps the model's own count of random values used, so that the values after it are
fresh (R9, R300; log entry 22). -/
def deliver (e : Event) (s : State) : Host.Outcome State Fault Refusal :=
  match e with
  | .reset img => .next { State.boot img with rndIndex := s.rndIndex }
  | .step => step s
  | .tick => .next s.tick
  | .keyDown k => .next (s.keyDown k)
  | .keyUp k => .next (s.keyUp k)
  | .sample => .next s

/-- One frame of the host's expected protocol: up to `n` steps, stopping early when the core is halted or waiting, then one Tick;
the Sample after it changes nothing (R275). -/
def runFrame : Nat → State → Host.Outcome State Fault Refusal
  | 0, s => .next s.tick
  | n + 1, s =>
    if s.stalled then .next s.tick
    else
      match step s with
      | .next t => runFrame n t
      | .fault f => .fault f
      | .refused r => .refused r

end Sys2Proof.Machine
end

