-- ==== Sys2Proof/Safety.lean ====
section
/-! DEFINITION. The terms claims use: which parts of the state two states share (frames), the invariants of the machine
(10_state.md R45), the states a run can reach, and where the set pixels of a sprite land (44_display.md R231). -/

namespace Sys2Proof.Machine

/-- The parts of the state, for frames. -/
inductive Part where
  | v | pc | idx | flags | stack | dt | st | plane | hires | disp | keys | wait | halt | pattern | quirks | mem | rnd
  deriving DecidableEq, Repr

/-- `t` has the part as `s` has it. For memory: every byte reads as before. -/
def Unchanged (s t : State) : Part → Prop
  | .v => t.v = s.v
  | .pc => t.pc = s.pc
  | .idx => t.idx = s.idx
  | .flags => t.flags = s.flags
  | .stack => t.stack = s.stack ∧ t.sp = s.sp
  | .dt => t.dt = s.dt
  | .st => t.st = s.st
  | .plane => t.plane = s.plane
  | .hires => t.hires = s.hires
  | .disp => t.disp = s.disp
  | .keys => t.keys = s.keys
  | .wait => t.waiting = s.waiting ∧ t.waitReg = s.waitReg
  | .halt => t.halted = s.halted ∧ t.haltCause = s.haltCause ∧ t.haltOp = s.haltOp
  | .pattern => t.pattern = s.pattern
  | .quirks => t.quirks = s.quirks
  | .mem => ∀ a : Word, t.readByte a = s.readByte a
  | .rnd => t.rndIndex = s.rndIndex

/-- Every part of the state but those listed is unchanged: the frame of an instruction. -/
def SameExcept (parts : List Part) (s t : State) : Prop :=
  ∀ p, p ∉ parts → Unchanged s t p

/-- Every general register but those listed is unchanged. -/
def RegsExcept (rs : List Reg) (s t : State) : Prop :=
  ∀ r, r ∉ rs → t.getV r = s.getV r

/-- Every byte of memory outside the `n` bytes from `a` on (addresses wrapping, R65) reads as before. -/
def MemExcept (a : Word) (n : Nat) (s t : State) : Prop :=
  ∀ c : Word, n ≤ (c - a).toNat → t.readByte c = s.readByte c

/-- The parts of the state each instruction may write after the fetch advance of the pc (R22, R24-R31, R36-R42): everything else
is its frame. `rnd` is the model's own counter (log entry 1). -/
def partsWritten : Instr → List Part
  | .halt | .exit => [.halt]
  | .ret | .call _ => [.pc, .stack, .halt]
  | .jp _ | .jpo _ | .sei _ _ | .snei _ _ | .se _ _ | .sne _ _ | .skp _ | .sknp _ => [.pc]
  | .ldi _ _ | .addi _ _ | .mov _ _ | .or _ _ | .and _ _ | .xor _ _ | .add _ _ | .sub _ _ | .shr _ _
  | .rsb _ _ | .shl _ _ | .ldr _ _ | .ldf _ | .gdt _ => [.v]
  | .rnd _ _ => [.v, .rnd]
  | .idx _ | .addidx _ | .font _ | .bfont _ => [.idx]
  | .idxl _ => [.idx, .pc]
  | .bcd _ | .str _ _ => [.mem]
  | .stm _ => [.mem, .idx]
  | .ldm _ => [.v, .idx]
  | .stf _ => [.flags]
  | .audio _ => [.pattern]
  | .cls | .scd _ | .scu _ | .scr | .scl => [.disp]
  | .lores | .hires => [.disp, .hires]
  | .plane _ => [.plane]
  | .draw _ _ _ => [.v, .disp]
  | .waitk _ => [.wait]
  | .sdt _ => [.dt]
  | .sst _ => [.st]

/-- The general registers each instruction writes: its destination register or range (R22), and `v[15]` for the six
instructions that write it as a flag (R21). -/
def regsWritten : Instr → List Reg
  | .ldi x _ | .addi x _ | .mov x _ | .or x _ | .and x _ | .xor x _ | .rnd x _ | .gdt x => [x]
  | .add x _ | .sub x _ | .shr x _ | .rsb x _ | .shl x _ => [x, vF]
  | .draw _ _ _ => [vF]
  | .ldm x => regsUpTo x
  | .ldr x y => regSpan x y
  | .ldf x => regsUpTo (BitVec.ofNat 4 (flagLast x))
  | _ => []

/-- The result of a flag-writing ALU operation (R161): away from `x = 15` the destination holds `val` and `v[15]` holds `flag`; on it
the second of the two writes wins, by the flag-write-order quirk (decision D6). Nothing else changes. -/
def FlaggedResult (s t : State) (x : Reg) (val flag : Nat) : Prop :=
  (x ≠ vF → (t.getV x).toNat = val ∧ (t.getV vF).toNat = flag) ∧
  (x = vF → (t.getV vF).toNat = if s.quirks.vfFirst then val else flag) ∧
  RegsExcept [x, vF] s t ∧ SameExcept [.v] s t

/-- Register `r` is in the range between `x` and `y`, in either direction (R200). -/
def Between (x y r : Reg) : Prop :=
  (x.toNat ≤ r.toNat ∧ r.toNat ≤ y.toNat) ∨ (y.toNat ≤ r.toNat ∧ r.toNat ≤ x.toNat)

/-- `abs(r - x)` of two register numbers. -/
def regDist (x r : Reg) : Nat := (r.toNat - x.toNat) + (x.toNat - r.toNat)

/-- The display of `t` is that of `s` after a scroll whose new bits are `moved`: the selected planes of the active cells take
them, every other bit of the display and everything else is unchanged (R221). -/
def ScrolledTo (s t : State) (moved : PlaneId → Nat → Nat → Bool) : Prop :=
  (∀ k c r, c < s.width → r < s.height →
    (t.disp.cell c r).bit k = if s.selected k then moved k c r else (s.disp.cell c r).bit k) ∧
  (∀ c r, ¬ (c < s.width ∧ r < s.height) → t.disp.cell c r = s.disp.cell c r) ∧
  SameExcept [.disp] s t

/-- The invariants of every reachable state (R45, R35, R39): memory canonical, cells outside the active area clear, never halted
and waiting at once, and a halt record exactly when halted. That `sp` is in [0,16] and `plane` in [0,3] the types say. -/
structure State.Inv (s : State) : Prop where
  mem_wf : s.mem.wf
  inactive_clear : ∀ c r, (s.width ≤ c ∨ s.height ≤ r) → s.disp.cell c r = Cell.clear
  waiting_running : s.waiting = true → s.halted = false
  running_record : s.halted = false → s.haltCause = .none ∧ s.haltOp = 0
  halted_record : s.halted = true → s.haltCause ≠ .none

/-- The states some sequence of events reaches from a Reset (R10, R302). -/
inductive Reachable : State → Prop where
  | boot (img : ResetImage) : Reachable (State.boot img)
  | event (e : Event) {s t : State} : Reachable s → deliver e s = .next t → Reachable t

/-- The set bit in row `a`, column `b` of the sprite at `ptr`, drawn from the origin `(ox, oy)`, lands on the cell at column `c`,
row `r`: it is not clipped and its wrapped coordinate is that cell (R231). -/
def SpriteLands (s : State) (n : BitVec 4) (ptr : Word) (ox oy a b c r : Nat) : Prop :=
  a < spriteRows n ∧ b < spriteCols n ∧ s.spriteBit n ptr a b = true ∧
    s.clipped (ox + b) (oy + a) = false ∧ (ox + b) % s.width = c ∧ (oy + a) % s.height = r

/-- Some set bit of the sprite lands on the cell. -/
def SpriteCovers (s : State) (n : BitVec 4) (ptr : Word) (ox oy c r : Nat) : Prop :=
  ∃ a b, SpriteLands s n ptr ox oy a b c r

/-- The memory address of plane `k`'s sprite data in a draw: plane 2 reads after plane 1's bytes when plane 1 is selected too
(R231, decision D15). -/
def State.spritePtr (s : State) (n : BitVec 4) : PlaneId → Word
  | .one => s.idx
  | .two => if s.selected .one then s.idx + BitVec.ofNat 16 (spriteBytes n) else s.idx

/-- A set bit of a selected plane lands on a cell where that plane's bit was set: a collision (R231). -/
def SpriteCollides (s : State) (n : BitVec 4) (ox oy : Nat) : Prop :=
  ∃ k c r, s.selected k = true ∧ SpriteCovers s n (s.spritePtr n k) ox oy c r ∧ (s.disp.cell c r).bit k = true

end Sys2Proof.Machine
end

