-- ==== Sys2Proof/Certificates/Slice0/Obligations.lean ====
section
/-! DEFINITION. The statements for the provers. Each docstring names the rule of spec/ it formalises; where a clause rests on one of
the spec's own decisions (92_eei_decisions.md D<n>) or on a choice of the model, it says so and names the log entry. A statement
of an instruction's result has as its conclusion that `exec` answers a next state, for every operand and state; the pc of
`exec`'s state is already past the instruction's first word (R120, R140). Frames: `SameExcept` (every other part of the
state), `RegsExcept` (every other register), `MemExcept` (every byte outside the stored ones), all in Safety.lean. -/

open Sys2Proof Sys2Proof.Machine

/-! ## Encoding -/

/-- R90, R92, R96, R101: decoding an encoded instruction gives it back, with every operand at every value, and leaves the bytes
after it. For `AUDIO` the operand is the field `x` that the model's constructor keeps (DEDUCED; log entry 26): by R96 the hardware
ignores it. Rests on the opcode numbers of decisions D2, D3 (log entry 6) only in that both directions use one table. -/
def Obligations.DecodeEncodeRoundTrip : Prop :=
  ∀ (i : Instr) (rest : List Byte), i.wellFormed = true → decode (encode i ++ rest) = .ok (i, rest)

/-- R95, R96: a word that decodes is the encoding of what it decodes to, so no two words decode to the same `Instr`; the long
form's operand is the word after it (R99). For `AUDIO` this is the model's choice and no rule of the spec: by R96 all sixteen
words `Fx02` are the one instruction `AUDIO`, whose field `x` is ignored and assembled as 0, and the model's constructor keeps
`x`, so that they decode to sixteen values of `Instr` with one effect (DEDUCED; log entry 26). The opcode numbers are decisions
D2, D3 (log entry 6). -/
def Obligations.EncodeDecodeRoundTrip : Prop :=
  ∀ (op next : Word) (i : Instr), decodeOp op next = some i →
    encodeWord i = op ∧ ∀ nnnn, i = .idxl nnnn → nnnn = next

/-- R95: no word satisfies two rows of the opcode table. The numbers of the rows marked gk and src+order are decisions D2, D3 (log
entry 6). -/
def Obligations.OpcodeRowsDisjoint : Prop :=
  ∀ (op next : Word) (i j : Instr), i ∈ candidates op next → j ∈ candidates op next →
    i.opcode.claims op = true → j.opcode.claims op = true → i = j

/-- R121, R122, R127 (marked derived by the spec): the document's dispatch precedence and the table select the same instruction
for every word, and leave the same words unknown. The numbers that the document does not give are decisions D2, D3 on both sides
(log entry 6). -/
def Obligations.DispatchOrderEqualsTable : Prop :=
  ∀ op next : Word, dispatchWord op next = decodeOp op next

/-- R97 (marked derived by the spec): the words that match no row are exactly those of the spec's list by family. The list rests
on the opcode numbers of decisions D2, D3 (log entry 6) and on decision D20. -/
def Obligations.UnknownWordsListed : Prop :=
  ∀ op next : Word, decodeOp op next = none ↔ unknownWord op = true

/-- R96: eleven words, written out from the encodings, decode to the instruction they stand for: words of the top-nibble families
0, 1, 3, 5, 8, D, E and F, and none of the other eight. The numbers of 0x3A14 and 0x8AB7 are the spec's decision D2, those of
0xF265 and 0xF50A its decision D3 (log entry 6); the other seven words' numbers are the document's own. -/
def Obligations.SampleWordsDecode : Prop :=
  decodeOp 0x00FD 0 = some .exit ∧ decodeOp 0x00C3 0 = some (.scd 3) ∧ decodeOp 0x1ABC 0 = some (.jp 0xABC) ∧
  decodeOp 0x3A14 0 = some (.sei 10 0x14) ∧ decodeOp 0x5132 0 = some (.str 1 3) ∧
  decodeOp 0x8AB7 0 = some (.rsb 10 11) ∧ decodeOp 0xD125 0 = some (.draw 1 2 5) ∧ decodeOp 0xE3A1 0 = some (.sknp 3) ∧
  decodeOp 0xF000 0x1234 = some (.idxl 0x1234) ∧ decodeOp 0xF265 0 = some (.ldm 2) ∧ decodeOp 0xF50A 0 = some (.waitk 5)

/-! ## The Step -/

/-- R120, R123, R126: while halted or waiting a step changes nothing; else, when the words at the pc decode to an instruction, the
step is that instruction's `exec` with the pc advanced by 2; and when they do not, it is the UnknownOpcode halt with the raw word.
That a step while halted is a no-op, and the halt record, are decision D14 (log entry 14); that a halt is a next state is log
entry 23 (DEDUCED). -/
def Obligations.StepRunsDecodedInstruction : Prop :=
  (∀ s : State, s.halted = true ∨ s.waiting = true → step s = .next s) ∧
  (∀ (s : State) (i : Instr), s.halted = false → s.waiting = false →
    decodeOp (s.readWord s.pc) (s.readWord (s.pc + 2)) = some i → step s = exec i { s with pc := s.pc + 2 }) ∧
  (∀ s : State, s.halted = false → s.waiting = false →
    decodeOp (s.readWord s.pc) (s.readWord (s.pc + 2)) = none →
    step s = .next { s with
      pc := s.pc + 2, halted := true, haltCause := .unknownOpcode, haltOp := s.readWord s.pc })

/-- R97, R260: every instruction completes in every state with a next state: there is no fault and no refusal. That the entry of a
halt (`HALT`, `EXIT`, a fatal `CALL` or `RET`) is a next state and no fault of the model is the model's deduction from R260 and
R267 (DEDUCED; log entry 23), no rule of the spec. -/
def Obligations.ExecAlwaysCompletes : Prop :=
  ∀ (i : Instr) (s : State), ∃ t, exec i s = .next t

/-- R97, R123, R126: every step of every state answers a next state. That a halt, the unknown opcode's too, is a next state and no
fault of the model is the model's deduction from R260 and R267 (DEDUCED; log entry 23; 93_implementation_defined.md's row O3
treats the unknown opcode as a fault); that a step while halted is a no-op is decision D14 (log entry 14). -/
def Obligations.StepAlwaysCompletes : Prop :=
  ∀ s : State, ∃ t, step s = .next t

/-- R267, R262 (decisions D14, D23; log entry 14; a halt as a next state: log entry 23, DEDUCED): halts are precise. A step that
enters the halted state leaves the pc at the fetch address plus 2, records a cause and the instruction word, and changes nothing
else. -/
def Obligations.HaltsArePrecise : Prop :=
  ∀ s t : State, step s = .next t → s.halted = false → t.halted = true →
    t.pc = s.pc + 2 ∧ t.haltOp = s.readWord s.pc ∧ t.haltCause ≠ .none ∧ SameExcept [.pc, .halt] s t

/-- R38, R268 (decision D14; log entry 14): a halt is terminal. Once halted, no event but Reset clears the halt or changes its
record, and a step changes nothing at all. -/
def Obligations.HaltIsTerminal : Prop :=
  ∀ (e : Event) (s t : State), s.halted = true → (∀ img, e ≠ .reset img) → deliver e s = .next t →
    t.halted = true ∧ t.haltCause = s.haltCause ∧ t.haltOp = s.haltOp ∧ (e = .step → t = s)

/-- R75, R90: two words stored where the next instruction is fetched are what the next fetch decodes, and storing them changes only
their four bytes. -/
def Obligations.PlacedWordsAreFetched : Prop :=
  ∀ (s : State) (op next : Word),
    (s.placeWords op next).fetchInstr = decodeOp op next ∧ (s.placeWords op next).fetchOp = op ∧
    MemExcept s.pc 4 s (s.placeWords op next) ∧ SameExcept [.mem] s (s.placeWords op next)

/-! ## Invariants and whole-machine rules -/

/-- R45, R35, R39: every step keeps the invariants, from every state that meets them. -/
def Obligations.StepKeepsInvariants : Prop :=
  ∀ s t : State, s.Inv → step s = .next t → t.Inv

/-- R45, R35, R39: so does every event of the interface. -/
def Obligations.EventsKeepInvariants : Prop :=
  ∀ (e : Event) (s t : State), s.Inv → deliver e s = .next t → t.Inv

/-- R45: "Invariants that hold in every reachable state". The last clause is the two ranges that the
types of `sp` and `plane` carry, the model's way of excluding other values (DEDUCED; log entry 26). -/
def Obligations.ReachableStatesMeetInvariants : Prop :=
  ∀ s : State, Reachable s → s.Inv ∧ s.sp.val ≤ 16 ∧ s.plane.toNat ≤ 3

/-- The model's reset state meets the invariants (its quirks, fonts and empty program are the model's choice, log entries 2, 3). -/
def Obligations.ResetStateMeetsInvariants : Prop :=
  State.reset.Inv

/-- R40: `Q` is the value given at Reset, and no other event changes it. -/
def Obligations.QuirksAreConstant : Prop :=
  (∀ (img : ResetImage) (s : State), ∃ t, deliver (.reset img) s = .next t ∧ t.quirks = img.quirks) ∧
  (∀ (e : Event) (s t : State), (∀ img, e ≠ .reset img) → deliver e s = .next t → t.quirks = s.quirks)

/-- R22, R24-R31, R36-R42: what each instruction leaves unchanged. Every part of the state outside the instruction's list
(`partsWritten`) is as before, every byte of memory for an instruction that stores nothing. -/
def Obligations.InstructionFrames : Prop :=
  ∀ (i : Instr) (s t : State), exec i s = .next t → SameExcept (partsWritten i) s t

/-- R21, R22: every register outside the instruction's destinations (`regsWritten`) is unchanged; in particular `v[15]` is written
as a side effect by the six flag-writing instructions only. -/
def Obligations.RegisterFrames : Prop :=
  ∀ (i : Instr) (s t : State), exec i s = .next t → RegsExcept (regsWritten i) s t

/-- R29, R39, R41: the sound timer, the halt record and the audio pattern are read by no instruction: two states that differ only
in them step to states that differ only in them. -/
def Obligations.OutputsAreNeverRead : Prop :=
  ∀ (i : Instr) (s : State) (st : Byte) (cause : HaltCause) (op : Word) (p : Vector Byte 16), ∃ t u,
    exec i s = .next t ∧ exec i { s with st := st, haltCause := cause, haltOp := op, pattern := p } = .next u ∧
    { u with st := t.st, haltCause := t.haltCause, haltOp := t.haltOp, pattern := t.pattern } = t

/-! ## Memory -/

/-- R61, R62: a byte read at any address modulo 65536 after a byte write at any address modulo 65536 gives the byte written there,
and the byte as before everywhere else; a write changes nothing but memory. -/
def Obligations.ReadAfterWrite : Prop :=
  ∀ (s : State) (a c : Nat) (b : Byte),
    (s.writeByte (BitVec.ofNat 16 a) b).readByte (BitVec.ofNat 16 c) =
      (if c % 65536 = a % 65536 then b else s.readByte (BitVec.ofNat 16 c)) ∧
    SameExcept [.mem] s (s.writeByte (BitVec.ofNat 16 a) b)

/-- R63, R65: the 16-bit read is big-endian, and its second address wraps from 0xFFFF to 0x0000 (decision D11; log entry 12). -/
def Obligations.WordReadIsBigEndian : Prop :=
  ∀ (s : State) (a : Nat),
    (s.readWord (BitVec.ofNat 16 a)).toNat =
      (s.readByte (BitVec.ofNat 16 a)).toNat * 256 + (s.readByte (BitVec.ofNat 16 ((a + 1) % 65536))).toNat

/-! ## Halts -/

/-- R124, R125, R261 (decision D14; log entry 14; a halt as a next state: log entry 23, DEDUCED): `HALT` and `EXIT` halt with
cause Exit and their own word, and change nothing else. -/
def Obligations.HaltAndExitHalt : Prop :=
  ∀ s : State,
    (∃ t, exec .halt s = .next t ∧ t.halted = true ∧ t.haltCause.code = 1 ∧ t.haltOp = 0x0000 ∧ SameExcept [.halt] s t) ∧
    (∃ t, exec .exit s = .next t ∧ t.halted = true ∧ t.haltCause.code = 1 ∧ t.haltOp = 0x00FD ∧ SameExcept [.halt] s t)

/-! ## Control transfer -/

/-- R142: `JP` sets the pc to the zero-extended address and nothing else. -/
def Obligations.JumpSetsPc : Prop :=
  ∀ (nnn : BitVec 12) (s : State), ∃ t, exec (.jp nnn) s = .next t ∧ t.pc.toNat = nnn.toNat ∧ SameExcept [.pc] s t

/-- R144: `JPO` adds `v[0]`, or under the jump-offset quirk the register named by the high nibble of the target. -/
def Obligations.JumpOffsetAddsRegister : Prop :=
  ∀ (nnn : BitVec 12) (s : State), ∃ t, exec (.jpo nnn) s = .next t ∧
    t.pc.toNat =
      (nnn.toNat + (s.getV (if s.quirks.jumpVx then BitVec.ofNat 4 (nnn.toNat / 256) else 0)).toNat) % 65536 ∧
    SameExcept [.pc] s t

/-- R143, R263 (decisions D14, D22, D23; log entries 14, 20; a halt as a next state: log entry 23, DEDUCED): `CALL` with room
pushes the pc and jumps; with a full stack it halts with StackOverflow and its own word, nothing else changed. -/
def Obligations.CallPushesOrOverflows : Prop :=
  ∀ (nnn : BitVec 12) (s : State),
    (∀ h : s.sp.val < 16, ∃ t, exec (.call nnn) s = .next t ∧
      t.pc.toNat = nnn.toNat ∧ t.sp.val = s.sp.val + 1 ∧ t.stack[s.sp.val] = s.pc ∧
      (∀ (k : Nat) (hk : k < 16), k ≠ s.sp.val → t.stack[k] = s.stack[k]) ∧ SameExcept [.pc, .stack] s t) ∧
    (s.sp.val = 16 → ∃ t, exec (.call nnn) s = .next t ∧
      t.halted = true ∧ t.haltCause.code = 3 ∧ t.haltOp.toNat = 0x2000 + nnn.toNat ∧ SameExcept [.halt] s t)

/-- R141, R264 (decisions D14, D23; log entry 14; a halt as a next state: log entry 23, DEDUCED): `RET` with a valid entry pops it
into the pc, leaving the entry in place; with none it halts with StackUnderflow, nothing else changed. -/
def Obligations.ReturnPopsOrUnderflows : Prop :=
  ∀ s : State,
    (∀ h : 0 < s.sp.val, ∃ t, exec .ret s = .next t ∧
      t.pc = s.stack[s.sp.val - 1]'(by have := s.sp.isLt; omega) ∧ t.sp.val = s.sp.val - 1 ∧ t.stack = s.stack ∧
      SameExcept [.pc, .stack] s t) ∧
    (s.sp.val = 0 → ∃ t, exec .ret s = .next t ∧
      t.halted = true ∧ t.haltCause.code = 4 ∧ t.haltOp = 0x00EE ∧ SameExcept [.halt] s t)

/-- R27, R141, R143: a `CALL` with room followed by a `RET` comes back to the instruction after the call, with the stack pointer and
every valid entry as before. -/
def Obligations.CallThenReturnComesBack : Prop :=
  ∀ (nnn : BitVec 12) (s : State), s.sp.val < 16 → ∃ t u, exec (.call nnn) s = .next t ∧ exec .ret t = .next u ∧
    u.pc = s.pc ∧ u.sp = s.sp ∧ (∀ (k : Nat) (hk : k < 16), k < s.sp.val → u.stack[k] = s.stack[k]) ∧
    SameExcept [.stack] s u

/-- R145, R146, R147, R148: the four skips on register values add 2 to the pc exactly when their condition holds. -/
def Obligations.RegisterSkips : Prop :=
  ∀ (x y : Reg) (nn : Byte) (s : State),
    (∃ t, exec (.sei x nn) s = .next t ∧
      t.pc = (if (s.getV x).toNat = nn.toNat then s.pc + 2 else s.pc) ∧ SameExcept [.pc] s t) ∧
    (∃ t, exec (.snei x nn) s = .next t ∧
      t.pc = (if (s.getV x).toNat = nn.toNat then s.pc else s.pc + 2) ∧ SameExcept [.pc] s t) ∧
    (∃ t, exec (.se x y) s = .next t ∧
      t.pc = (if (s.getV x).toNat = (s.getV y).toNat then s.pc + 2 else s.pc) ∧ SameExcept [.pc] s t) ∧
    (∃ t, exec (.sne x y) s = .next t ∧
      t.pc = (if (s.getV x).toNat = (s.getV y).toNat then s.pc else s.pc + 2) ∧ SameExcept [.pc] s t)

/-- R149, R150: the two key skips test the key named by the low 4 bits of the register. -/
def Obligations.KeySkips : Prop :=
  ∀ (x : Reg) (s : State),
    (∃ t, exec (.skp x) s = .next t ∧
      t.pc = (if s.keys[(s.getV x).toNat % 16]'(Nat.mod_lt _ (by decide)) then s.pc + 2 else s.pc) ∧
      SameExcept [.pc] s t) ∧
    (∃ t, exec (.sknp x) s = .next t ∧
      t.pc = (if s.keys[(s.getV x).toNat % 16]'(Nat.mod_lt _ (by decide)) then s.pc else s.pc + 2) ∧
      SameExcept [.pc] s t)

/-! ## Registers and arithmetic -/

/-- R172: `LDI` loads the immediate into the destination and changes nothing else. -/
def Obligations.LoadImmediate : Prop :=
  ∀ (x : Reg) (nn : Byte) (s : State), ∃ t, exec (.ldi x nn) s = .next t ∧
    t.getV x = nn ∧ RegsExcept [x] s t ∧ SameExcept [.v] s t

/-- R173: `ADDI` adds modulo 256. That it writes no flag is decision D33 (log entry 18). -/
def Obligations.AddImmediateWraps : Prop :=
  ∀ (x : Reg) (nn : Byte) (s : State), ∃ t, exec (.addi x nn) s = .next t ∧
    (t.getV x).toNat = ((s.getV x).toNat + nn.toNat) % 256 ∧ RegsExcept [x] s t ∧ SameExcept [.v] s t

/-- R162, R163, R164, R165: copy, or, and, exclusive or, without a flag. -/
def Obligations.CopyAndBitwise : Prop :=
  ∀ (x y : Reg) (s : State),
    (∃ t, exec (.mov x y) s = .next t ∧ t.getV x = s.getV y ∧ RegsExcept [x] s t ∧ SameExcept [.v] s t) ∧
    (∃ t, exec (.or x y) s = .next t ∧ t.getV x = s.getV x ||| s.getV y ∧ RegsExcept [x] s t ∧ SameExcept [.v] s t) ∧
    (∃ t, exec (.and x y) s = .next t ∧ t.getV x = s.getV x &&& s.getV y ∧ RegsExcept [x] s t ∧ SameExcept [.v] s t) ∧
    (∃ t, exec (.xor x y) s = .next t ∧ t.getV x = s.getV x ^^^ s.getV y ∧ RegsExcept [x] s t ∧ SameExcept [.v] s t)

/-- R166, R161: `ADD` writes the sum modulo 256 and the carry `sum > 255`. The case `x = 15` rests on decision D6 (log entry 7). -/
def Obligations.AddWritesCarry : Prop :=
  ∀ (x y : Reg) (s : State), ∃ t, exec (.add x y) s = .next t ∧
    FlaggedResult s t x (((s.getV x).toNat + (s.getV y).toNat) % 256)
      (if 255 < (s.getV x).toNat + (s.getV y).toNat then 1 else 0)

/-- R167, R169, R161: `SUB` and `RSB` write the difference modulo 256 and the not-borrow flag. The case `x = 15` rests on decision
D6 (log entry 7). -/
def Obligations.SubtractWritesNotBorrow : Prop :=
  ∀ (x y : Reg) (s : State),
    (∃ t, exec (.sub x y) s = .next t ∧
      FlaggedResult s t x (((s.getV x).toNat + 256 - (s.getV y).toNat) % 256)
        (if (s.getV y).toNat ≤ (s.getV x).toNat then 1 else 0)) ∧
    (∃ t, exec (.rsb x y) s = .next t ∧
      FlaggedResult s t x (((s.getV y).toNat + 256 - (s.getV x).toNat) % 256)
        (if (s.getV x).toNat ≤ (s.getV y).toNat then 1 else 0))

/-- R168, R170, R161: the shifts move the quirk-selected source by one bit and write the bit shifted out. Which quirk value selects
which source is decision D4, the case `x = 15` decision D6 (log entry 7). -/
def Obligations.ShiftsWriteBitOut : Prop :=
  ∀ (x y : Reg) (s : State),
    (∃ t, exec (.shr x y) s = .next t ∧
      FlaggedResult s t x ((s.getV (if s.quirks.shiftVx then x else y)).toNat / 2)
        ((s.getV (if s.quirks.shiftVx then x else y)).toNat % 2)) ∧
    (∃ t, exec (.shl x y) s = .next t ∧
      FlaggedResult s t x ((s.getV (if s.quirks.shiftVx then x else y)).toNat * 2 % 256)
        ((s.getV (if s.quirks.shiftVx then x else y)).toNat / 128))

/-- R175 (decision D19): `RND` writes a random byte masked by the immediate. The byte is the model's free value `Config.rnd` at the
count of values used (log entry 1): the statement holds for every value of it, and no bit outside the mask is ever set. -/
def Obligations.RandomIsMasked : Prop :=
  ∀ (x : Reg) (nn : Byte) (s : State), ∃ t, exec (.rnd x nn) s = .next t ∧
    t.getV x = Config.rnd s.rndIndex &&& nn ∧ t.getV x &&& ~~~nn = 0 ∧ t.rndIndex = s.rndIndex + 1 ∧
    RegsExcept [x] s t ∧ SameExcept [.v, .rnd] s t

/-! ## Index register, loads and stores, flag bank, audio -/

/-- R190: `IDX` loads the zero-extended address into `I`. -/
def Obligations.IndexImmediate : Prop :=
  ∀ (nnn : BitVec 12) (s : State), ∃ t, exec (.idx nnn) s = .next t ∧ t.idx.toNat = nnn.toNat ∧ SameExcept [.idx] s t

/-- R191: `IDXL` loads the 16-bit word after 0xF000, big-endian (decision D12; log entry 13), and steps over it: as an instruction
whose operand the decoder read, and as a whole step from memory. -/
def Obligations.IndexLongImmediate : Prop :=
  (∀ (nnnn : Word) (s : State), ∃ t, exec (.idxl nnnn) s = .next t ∧
    t.idx = nnnn ∧ t.pc = s.pc + 2 ∧ SameExcept [.idx, .pc] s t) ∧
  (∀ s : State, s.halted = false → s.waiting = false → s.readByte s.pc = 0xF0 → s.readByte (s.pc + 1) = 0x00 →
    ∃ t, step s = .next t ∧
      t.idx.toNat = (s.readByte (s.pc + 2)).toNat * 256 + (s.readByte (s.pc + 3)).toNat ∧ t.pc = s.pc + 4 ∧
      SameExcept [.idx, .pc] s t)

/-- R192: `ADDIDX` adds the register to `I` modulo 65536. That it writes no flag is decision D31 (log entry 18). -/
def Obligations.AddToIndexWraps : Prop :=
  ∀ (x : Reg) (s : State), ∃ t, exec (.addidx x) s = .next t ∧
    t.idx.toNat = (s.idx.toNat + (s.getV x).toNat) % 65536 ∧ SameExcept [.idx] s t

/-- R193, R194: the two font lookups. That the digit is the low 4 bits of the register is decision D8 (log entry 9). -/
def Obligations.FontAddresses : Prop :=
  ∀ (x : Reg) (s : State),
    (∃ t, exec (.font x) s = .next t ∧ t.idx.toNat = (s.getV x).toNat % 16 * 5 ∧ SameExcept [.idx] s t) ∧
    (∃ t, exec (.bfont x) s = .next t ∧ t.idx.toNat = (s.getV x).toNat % 16 * 10 + 80 ∧ SameExcept [.idx] s t)

/-- R197: `BCD` writes the hundreds, tens and units digits at `I`, `I+1`, `I+2` and changes no other byte and nothing else. -/
def Obligations.BcdWritesDigits : Prop :=
  ∀ (x : Reg) (s : State), ∃ t, exec (.bcd x) s = .next t ∧
    (t.readByte s.idx).toNat = (s.getV x).toNat / 100 ∧
    (t.readByte (s.idx + 1)).toNat = (s.getV x).toNat / 10 % 10 ∧
    (t.readByte (s.idx + 2)).toNat = (s.getV x).toNat % 10 ∧
    MemExcept s.idx 3 s t ∧ SameExcept [.mem] s t

/-- R198, R196: `STM` stores registers `0..x` from `I` on, and advances `I` under the quirk. Which quirk value advances is decision
D5 (log entry 7). -/
def Obligations.StoreRegistersUpTo : Prop :=
  ∀ (x : Reg) (s : State), ∃ t, exec (.stm x) s = .next t ∧
    (∀ r : Reg, r.toNat ≤ x.toNat → t.readByte (s.idx + BitVec.ofNat 16 r.toNat) = s.getV r) ∧
    t.idx = (if s.quirks.memAdvance then s.idx + BitVec.ofNat 16 (x.toNat + 1) else s.idx) ∧
    MemExcept s.idx (x.toNat + 1) s t ∧ SameExcept [.mem, .idx] s t

/-- R199, R196: `LDM` loads registers `0..x` from `I` on, and advances `I` under the quirk (decision D5; log entry 7). -/
def Obligations.LoadRegistersUpTo : Prop :=
  ∀ (x : Reg) (s : State), ∃ t, exec (.ldm x) s = .next t ∧
    (∀ r : Reg, t.getV r =
      if r.toNat ≤ x.toNat then s.readByte (s.idx + BitVec.ofNat 16 r.toNat) else s.getV r) ∧
    t.idx = (if s.quirks.memAdvance then s.idx + BitVec.ofNat 16 (x.toNat + 1) else s.idx) ∧
    SameExcept [.v, .idx] s t

/-- R200: `STR` stores the range from `x` to `y`, in either direction, the register named `x` at `I`. That `I` stays is decision D21
(log entry 19). -/
def Obligations.StoreRegisterRange : Prop :=
  ∀ (x y : Reg) (s : State), ∃ t, exec (.str x y) s = .next t ∧
    (∀ r, Between x y r → t.readByte (s.idx + BitVec.ofNat 16 (regDist x r)) = s.getV r) ∧
    MemExcept s.idx (regDist x y + 1) s t ∧ SameExcept [.mem] s t

/-- R201: `LDR` loads the range from `x` to `y`, in either direction, the register named `x` from `I`. That `I` stays is decision
D21 (log entry 19). -/
def Obligations.LoadRegisterRange : Prop :=
  ∀ (x y : Reg) (s : State), ∃ t, exec (.ldr x y) s = .next t ∧
    (∀ r, Between x y r → t.getV r = s.readByte (s.idx + BitVec.ofNat 16 (regDist x r))) ∧
    (∀ r, ¬ Between x y r → t.getV r = s.getV r) ∧ SameExcept [.v] s t

/-- R201 and the document's property S5: save-range then load-range with the same operands and `I` restores every register of the
range, whatever the registers hold in between. -/
def Obligations.RangeRoundTrip : Prop :=
  ∀ (x y : Reg) (s : State), ∃ t, exec (.str x y) s = .next t ∧
    ∀ u : State, u.idx = s.idx → (∀ a, u.readByte a = t.readByte a) →
      ∃ w, exec (.ldr x y) u = .next w ∧ ∀ r, Between x y r → w.getV r = s.getV r

/-- R202, R203, R204: the flag-bank copies. That registers `0..min(x,7)` are copied is decision D9 (log entry 10). -/
def Obligations.FlagBankCopies : Prop :=
  ∀ (x : Reg) (s : State),
    (∃ t, exec (.stf x) s = .next t ∧
      (∀ (z : Nat) (hz : z < 8), t.flags[z] = if z ≤ min x.toNat 7 then s.getV (BitVec.ofNat 4 z) else s.flags[z]) ∧
      SameExcept [.flags] s t) ∧
    (∃ t, exec (.ldf x) s = .next t ∧
      (∀ (z : Nat) (hz : z < 8), z ≤ min x.toNat 7 → t.getV (BitVec.ofNat 4 z) = s.flags[z]) ∧
      (∀ r : Reg, min x.toNat 7 < r.toNat → t.getV r = s.getV r) ∧ SameExcept [.v] s t)

/-- R205, R96: `AUDIO`, with any value of its ignored field (kept by the model's constructor: log entry 26), copies 16 bytes from
`I` into the pattern buffer. That `I` stays is decision D30 (log entry 19). -/
def Obligations.AudioCopiesPattern : Prop :=
  ∀ (x : BitVec 4) (s : State), ∃ t, exec (.audio x) s = .next t ∧
    (∀ (z : Nat) (hz : z < 16), t.pattern[z] = s.readByte (s.idx + BitVec.ofNat 16 z)) ∧ SameExcept [.pattern] s t

/-! ## Display -/

/-- R220, R226, R227: `CLS`, `LORES` and `HIRES` clear both planes of every cell, whatever the plane mask; the last two also set the
mode, even when it does not change. -/
def Obligations.ClearAndModeSwitch : Prop :=
  ∀ s : State,
    (∃ t, exec .cls s = .next t ∧ (∀ c r, t.disp.cell c r = Cell.clear) ∧ SameExcept [.disp] s t) ∧
    (∃ t, exec .lores s = .next t ∧ (∀ c r, t.disp.cell c r = Cell.clear) ∧ t.hires = false ∧
      SameExcept [.disp, .hires] s t) ∧
    (∃ t, exec .hires s = .next t ∧ (∀ c r, t.disp.cell c r = Cell.clear) ∧ t.hires = true ∧
      SameExcept [.disp, .hires] s t)

/-- R228: `PLANE` sets the mask to the low 2 bits of its field. That it is the field and not the register is decision D7 (log
entry 8). -/
def Obligations.PlaneSelectsField : Prop :=
  ∀ (x : BitVec 4) (s : State), ∃ t, exec (.plane x) s = .next t ∧ t.plane.toNat = x.toNat % 4 ∧ SameExcept [.plane] s t

/-- R221, R222, R223, R224, R225: the four scrolls, bit by bit. -/
def Obligations.ScrollsShiftSelectedPlanes : Prop :=
  ∀ (n : BitVec 4) (s : State),
    (∃ t, exec (.scd n) s = .next t ∧
      ScrolledTo s t fun k c r => if n.toNat ≤ r then (s.disp.cell c (r - n.toNat)).bit k else false) ∧
    (∃ t, exec (.scu n) s = .next t ∧
      ScrolledTo s t fun k c r => if r + n.toNat < s.height then (s.disp.cell c (r + n.toNat)).bit k else false) ∧
    (∃ t, exec .scr s = .next t ∧
      ScrolledTo s t fun k c r => if 4 ≤ c then (s.disp.cell (c - 4) r).bit k else false) ∧
    (∃ t, exec .scl s = .next t ∧
      ScrolledTo s t fun k c r => if c + 4 < s.width then (s.disp.cell (c + 4) r).bit k else false)

/-- R230, R231: a sprite draw. Each bit of a selected plane on which a set sprite bit lands is inverted, every other display bit is
unchanged, and `v[15]` becomes 1 exactly when some such bit was set before, else 0. The plane order and data pointer are
decision D15, the coordinates and the clip test decision D16 (log entry 15). -/
def Obligations.DrawXorsSprite : Prop :=
  ∀ (x y : Reg) (n : BitVec 4) (s : State), ∃ t, exec (.draw x y n) s = .next t ∧
    (∀ k c r, s.selected k = true → SpriteCovers s n (s.spritePtr n k) (s.getV x).toNat (s.getV y).toNat c r →
      (t.disp.cell c r).bit k = !(s.disp.cell c r).bit k) ∧
    (∀ k c r, ¬ (s.selected k = true ∧ SpriteCovers s n (s.spritePtr n k) (s.getV x).toNat (s.getV y).toNat c r) →
      (t.disp.cell c r).bit k = (s.disp.cell c r).bit k) ∧
    (SpriteCollides s n (s.getV x).toNat (s.getV y).toNat → t.getV vF = 1) ∧
    (¬ SpriteCollides s n (s.getV x).toNat (s.getV y).toNat → t.getV vF = 0) ∧
    RegsExcept [vF] s t ∧ SameExcept [.v, .disp] s t

/-- R232 (marked derived by the spec; 90_conflicts.md C7): drawing the same sprite twice at the same place, with the same mask,
mode, index, memory and quirks, restores the display; and the second draw reports a collision when the first set a clear bit.
Rests on decisions D15, D16 (log entry 15). -/
def Obligations.DrawTwiceRestores : Prop :=
  ∀ (x y : Reg) (n : BitVec 4) (s : State), ∃ t, exec (.draw x y n) s = .next t ∧
    ∀ u : State, u.disp = t.disp → u.plane = s.plane → u.hires = s.hires → u.idx = s.idx → u.quirks = s.quirks →
      (∀ a, u.readByte a = s.readByte a) → u.getV x = s.getV x → u.getV y = s.getV y →
      ∃ w, exec (.draw x y n) u = .next w ∧ w.disp = s.disp ∧
        ((∃ k c r, s.selected k = true ∧
          SpriteCovers s n (s.spritePtr n k) (s.getV x).toNat (s.getV y).toNat c r ∧
          (s.disp.cell c r).bit k = false) → w.getV vF = 1)

/-! ## Timers, keys, host events -/

/-- R251, R252, R254: `GDT` reads the delay timer, `SDT` and `SST` write the two timers. -/
def Obligations.TimerAccess : Prop :=
  ∀ (x : Reg) (s : State),
    (∃ t, exec (.gdt x) s = .next t ∧ t.getV x = s.dt ∧ RegsExcept [x] s t ∧ SameExcept [.v] s t) ∧
    (∃ t, exec (.sdt x) s = .next t ∧ t.dt = s.getV x ∧ SameExcept [.dt] s t) ∧
    (∃ t, exec (.sst x) s = .next t ∧ t.st = s.getV x ∧ SameExcept [.st] s t)

/-- R253: `WAITK` sets the waiting flag and the target register only; from then on Step and Tick change nothing and KeyUp does not
end the wait; a KeyDown writes its code to the target register and ends it, the pc unchanged. -/
def Obligations.WaitKeySuspends : Prop :=
  (∀ (x : Reg) (s : State), ∃ t, exec (.waitk x) s = .next t ∧
    t.waiting = true ∧ t.waitReg = x ∧ SameExcept [.wait] s t) ∧
  (∀ (s : State) (k : BitVec 4), s.waiting = true →
    step s = .next s ∧ deliver .tick s = .next s ∧
    (∃ t, deliver (.keyUp k) s = .next t ∧ SameExcept [.keys] s t) ∧
    (∃ t, deliver (.keyDown k) s = .next t ∧ t.waiting = false ∧ (t.getV s.waitReg).toNat = k.toNat ∧
      RegsExcept [s.waitReg] s t ∧ SameExcept [.v, .keys, .wait] s t))

/-- R270: `Tick` decrements each timer that is above 0, also when halted, and does nothing while waiting. The floor at 0 and the
halted case are decision D10 (log entry 11). -/
def Obligations.TickCountsDown : Prop :=
  ∀ s : State, ∃ t, deliver .tick s = .next t ∧
    t.dt.toNat = (if s.waiting then s.dt.toNat else s.dt.toNat - 1) ∧
    t.st.toNat = (if s.waiting then s.st.toNat else s.st.toNat - 1) ∧ SameExcept [.dt, .st] s t

/-- R272, R273 (decision D18; log entry 17): `KeyDown` presses its key and `KeyUp` releases it, no other key changes; a register and
the wait change only by a `KeyDown` while waiting. -/
def Obligations.KeyEventsMaintainKeys : Prop :=
  ∀ (k : BitVec 4) (s : State),
    (∃ t, deliver (.keyDown k) s = .next t ∧ (∀ j, t.key j = if j = k then true else s.key j) ∧
      SameExcept [.keys, .v, .wait] s t ∧ (s.waiting = false → SameExcept [.keys] s t)) ∧
    (∃ t, deliver (.keyUp k) s = .next t ∧ (∀ j, t.key j = if j = k then false else s.key j) ∧
      SameExcept [.keys] s t)

/-- R274: `Sample` reads the outputs and changes no state. -/
def Obligations.SampleReadsOutputs : Prop :=
  ∀ s : State, deliver .sample s = .next s ∧
    s.sample.hires = s.hires ∧ s.sample.dt = s.dt ∧ s.sample.st = s.st ∧ s.sample.pattern = s.pattern ∧
    s.sample.halted = s.halted ∧ s.sample.haltCause = s.haltCause.code ∧ s.sample.haltOp = s.haltOp ∧
    s.sample.waiting = s.waiting ∧ s.sample.cells.length = s.height ∧
    ∀ c r, c < s.width → r < s.height →
      (s.sample.cells[r]?.bind fun row => row[c]?) = some ((s.disp.cell c r).code)

/-- R44, R300, R301: the state after a Reset with any quirks, fonts and program, from any state: every item of the table of R44.
The values of memory outside the image, keys, stack, pattern, mode and halt record are decisions D13, D14, D18, D22, D27,
D30 (log entries 3, 14, 16, 20). -/
def Obligations.ResetEventLeavesResetState : Prop :=
  ∀ (img : ResetImage) (s : State), ∃ t, deliver (.reset img) s = .next t ∧
    t.pc = 0x0200 ∧ t.plane = 1 ∧ t.idx = 0 ∧ t.sp = 0 ∧ t.dt = 0 ∧ t.st = 0 ∧ t.hires = false ∧
    t.waiting = false ∧ t.waitReg = 0 ∧ t.halted = false ∧ t.haltCause.code = 0 ∧ t.haltOp = 0 ∧
    t.quirks = img.quirks ∧ (∀ r, t.getV r = 0) ∧ (∀ k, t.key k = false) ∧
    (∀ (z : Nat) (hz : z < 8), t.flags[z] = 0) ∧ (∀ (z : Nat) (hz : z < 16), t.stack[z] = 0) ∧
    (∀ (z : Nat) (hz : z < 16), t.pattern[z] = 0) ∧ (∀ c r, t.disp.cell c r = Cell.clear) ∧
    (∀ a : Nat, a < 65536 → t.readByte (BitVec.ofNat 16 a) =
      if h : a < 80 then img.fontSmall[a]
      else if a < 80 + 10 * img.fontLarge.length then
        ((img.fontLarge[(a - 80) / 10]?.bind fun g => g[(a - 80) % 10]?).getD 0)
      else if 0x200 ≤ a then (img.program[a - 0x200]?).getD 0
      else 0)
end

