-- ==== Sys2Proof/Laws/State.lean ====
section
/-! SUPPORT. For each update of the state, what every field holds after it: one lemma a field, so that no later proof unfolds a
record update. -/

namespace Sys2Proof.Machine

variable (s : State)

/-! ### writeByte -/

@[simp] theorem State.writeByte_v (a : Word) (b : Byte) : (s.writeByte a b).v = s.v := rfl
@[simp] theorem State.writeByte_pc (a : Word) (b : Byte) : (s.writeByte a b).pc = s.pc := rfl
@[simp] theorem State.writeByte_idx (a : Word) (b : Byte) : (s.writeByte a b).idx = s.idx := rfl
@[simp] theorem State.writeByte_flags (a : Word) (b : Byte) : (s.writeByte a b).flags = s.flags := rfl
@[simp] theorem State.writeByte_stack (a : Word) (b : Byte) : (s.writeByte a b).stack = s.stack := rfl
@[simp] theorem State.writeByte_sp (a : Word) (b : Byte) : (s.writeByte a b).sp = s.sp := rfl
@[simp] theorem State.writeByte_dt (a : Word) (b : Byte) : (s.writeByte a b).dt = s.dt := rfl
@[simp] theorem State.writeByte_st (a : Word) (b : Byte) : (s.writeByte a b).st = s.st := rfl
@[simp] theorem State.writeByte_plane (a : Word) (b : Byte) : (s.writeByte a b).plane = s.plane := rfl
@[simp] theorem State.writeByte_hires (a : Word) (b : Byte) : (s.writeByte a b).hires = s.hires := rfl
@[simp] theorem State.writeByte_disp (a : Word) (b : Byte) : (s.writeByte a b).disp = s.disp := rfl
@[simp] theorem State.writeByte_keys (a : Word) (b : Byte) : (s.writeByte a b).keys = s.keys := rfl
@[simp] theorem State.writeByte_waiting (a : Word) (b : Byte) : (s.writeByte a b).waiting = s.waiting := rfl
@[simp] theorem State.writeByte_waitReg (a : Word) (b : Byte) : (s.writeByte a b).waitReg = s.waitReg := rfl
@[simp] theorem State.writeByte_halted (a : Word) (b : Byte) : (s.writeByte a b).halted = s.halted := rfl
@[simp] theorem State.writeByte_haltCause (a : Word) (b : Byte) : (s.writeByte a b).haltCause = s.haltCause := rfl
@[simp] theorem State.writeByte_haltOp (a : Word) (b : Byte) : (s.writeByte a b).haltOp = s.haltOp := rfl
@[simp] theorem State.writeByte_pattern (a : Word) (b : Byte) : (s.writeByte a b).pattern = s.pattern := rfl
@[simp] theorem State.writeByte_quirks (a : Word) (b : Byte) : (s.writeByte a b).quirks = s.quirks := rfl
@[simp] theorem State.writeByte_mem (a : Word) (b : Byte) : (s.writeByte a b).mem = s.mem.write a.toNat b := rfl
@[simp] theorem State.writeByte_rndIndex (a : Word) (b : Byte) : (s.writeByte a b).rndIndex = s.rndIndex := rfl

/-! ### setV -/

@[simp] theorem State.setV_v (r : Reg) (b : Byte) : (s.setV r b).v = s.v.set r.toNat b r.isLt := rfl
@[simp] theorem State.setV_pc (r : Reg) (b : Byte) : (s.setV r b).pc = s.pc := rfl
@[simp] theorem State.setV_idx (r : Reg) (b : Byte) : (s.setV r b).idx = s.idx := rfl
@[simp] theorem State.setV_flags (r : Reg) (b : Byte) : (s.setV r b).flags = s.flags := rfl
@[simp] theorem State.setV_stack (r : Reg) (b : Byte) : (s.setV r b).stack = s.stack := rfl
@[simp] theorem State.setV_sp (r : Reg) (b : Byte) : (s.setV r b).sp = s.sp := rfl
@[simp] theorem State.setV_dt (r : Reg) (b : Byte) : (s.setV r b).dt = s.dt := rfl
@[simp] theorem State.setV_st (r : Reg) (b : Byte) : (s.setV r b).st = s.st := rfl
@[simp] theorem State.setV_plane (r : Reg) (b : Byte) : (s.setV r b).plane = s.plane := rfl
@[simp] theorem State.setV_hires (r : Reg) (b : Byte) : (s.setV r b).hires = s.hires := rfl
@[simp] theorem State.setV_disp (r : Reg) (b : Byte) : (s.setV r b).disp = s.disp := rfl
@[simp] theorem State.setV_keys (r : Reg) (b : Byte) : (s.setV r b).keys = s.keys := rfl
@[simp] theorem State.setV_waiting (r : Reg) (b : Byte) : (s.setV r b).waiting = s.waiting := rfl
@[simp] theorem State.setV_waitReg (r : Reg) (b : Byte) : (s.setV r b).waitReg = s.waitReg := rfl
@[simp] theorem State.setV_halted (r : Reg) (b : Byte) : (s.setV r b).halted = s.halted := rfl
@[simp] theorem State.setV_haltCause (r : Reg) (b : Byte) : (s.setV r b).haltCause = s.haltCause := rfl
@[simp] theorem State.setV_haltOp (r : Reg) (b : Byte) : (s.setV r b).haltOp = s.haltOp := rfl
@[simp] theorem State.setV_pattern (r : Reg) (b : Byte) : (s.setV r b).pattern = s.pattern := rfl
@[simp] theorem State.setV_quirks (r : Reg) (b : Byte) : (s.setV r b).quirks = s.quirks := rfl
@[simp] theorem State.setV_mem (r : Reg) (b : Byte) : (s.setV r b).mem = s.mem := rfl
@[simp] theorem State.setV_rndIndex (r : Reg) (b : Byte) : (s.setV r b).rndIndex = s.rndIndex := rfl

/-! ### advancePc -/

@[simp] theorem State.advancePc_v : (s.advancePc).v = s.v := rfl
@[simp] theorem State.advancePc_pc : (s.advancePc).pc = s.pc + 2 := rfl
@[simp] theorem State.advancePc_idx : (s.advancePc).idx = s.idx := rfl
@[simp] theorem State.advancePc_flags : (s.advancePc).flags = s.flags := rfl
@[simp] theorem State.advancePc_stack : (s.advancePc).stack = s.stack := rfl
@[simp] theorem State.advancePc_sp : (s.advancePc).sp = s.sp := rfl
@[simp] theorem State.advancePc_dt : (s.advancePc).dt = s.dt := rfl
@[simp] theorem State.advancePc_st : (s.advancePc).st = s.st := rfl
@[simp] theorem State.advancePc_plane : (s.advancePc).plane = s.plane := rfl
@[simp] theorem State.advancePc_hires : (s.advancePc).hires = s.hires := rfl
@[simp] theorem State.advancePc_disp : (s.advancePc).disp = s.disp := rfl
@[simp] theorem State.advancePc_keys : (s.advancePc).keys = s.keys := rfl
@[simp] theorem State.advancePc_waiting : (s.advancePc).waiting = s.waiting := rfl
@[simp] theorem State.advancePc_waitReg : (s.advancePc).waitReg = s.waitReg := rfl
@[simp] theorem State.advancePc_halted : (s.advancePc).halted = s.halted := rfl
@[simp] theorem State.advancePc_haltCause : (s.advancePc).haltCause = s.haltCause := rfl
@[simp] theorem State.advancePc_haltOp : (s.advancePc).haltOp = s.haltOp := rfl
@[simp] theorem State.advancePc_pattern : (s.advancePc).pattern = s.pattern := rfl
@[simp] theorem State.advancePc_quirks : (s.advancePc).quirks = s.quirks := rfl
@[simp] theorem State.advancePc_mem : (s.advancePc).mem = s.mem := rfl
@[simp] theorem State.advancePc_rndIndex : (s.advancePc).rndIndex = s.rndIndex := rfl

/-! ### jump -/

@[simp] theorem State.jump_v (a : Word) : (s.jump a).v = s.v := rfl
@[simp] theorem State.jump_pc (a : Word) : (s.jump a).pc = a := rfl
@[simp] theorem State.jump_idx (a : Word) : (s.jump a).idx = s.idx := rfl
@[simp] theorem State.jump_flags (a : Word) : (s.jump a).flags = s.flags := rfl
@[simp] theorem State.jump_stack (a : Word) : (s.jump a).stack = s.stack := rfl
@[simp] theorem State.jump_sp (a : Word) : (s.jump a).sp = s.sp := rfl
@[simp] theorem State.jump_dt (a : Word) : (s.jump a).dt = s.dt := rfl
@[simp] theorem State.jump_st (a : Word) : (s.jump a).st = s.st := rfl
@[simp] theorem State.jump_plane (a : Word) : (s.jump a).plane = s.plane := rfl
@[simp] theorem State.jump_hires (a : Word) : (s.jump a).hires = s.hires := rfl
@[simp] theorem State.jump_disp (a : Word) : (s.jump a).disp = s.disp := rfl
@[simp] theorem State.jump_keys (a : Word) : (s.jump a).keys = s.keys := rfl
@[simp] theorem State.jump_waiting (a : Word) : (s.jump a).waiting = s.waiting := rfl
@[simp] theorem State.jump_waitReg (a : Word) : (s.jump a).waitReg = s.waitReg := rfl
@[simp] theorem State.jump_halted (a : Word) : (s.jump a).halted = s.halted := rfl
@[simp] theorem State.jump_haltCause (a : Word) : (s.jump a).haltCause = s.haltCause := rfl
@[simp] theorem State.jump_haltOp (a : Word) : (s.jump a).haltOp = s.haltOp := rfl
@[simp] theorem State.jump_pattern (a : Word) : (s.jump a).pattern = s.pattern := rfl
@[simp] theorem State.jump_quirks (a : Word) : (s.jump a).quirks = s.quirks := rfl
@[simp] theorem State.jump_mem (a : Word) : (s.jump a).mem = s.mem := rfl
@[simp] theorem State.jump_rndIndex (a : Word) : (s.jump a).rndIndex = s.rndIndex := rfl

/-! ### raiseHalt -/

@[simp] theorem State.raiseHalt_v (c : HaltCause) (op : Word) : (s.raiseHalt c op).v = s.v := rfl
@[simp] theorem State.raiseHalt_pc (c : HaltCause) (op : Word) : (s.raiseHalt c op).pc = s.pc := rfl
@[simp] theorem State.raiseHalt_idx (c : HaltCause) (op : Word) : (s.raiseHalt c op).idx = s.idx := rfl
@[simp] theorem State.raiseHalt_flags (c : HaltCause) (op : Word) : (s.raiseHalt c op).flags = s.flags := rfl
@[simp] theorem State.raiseHalt_stack (c : HaltCause) (op : Word) : (s.raiseHalt c op).stack = s.stack := rfl
@[simp] theorem State.raiseHalt_sp (c : HaltCause) (op : Word) : (s.raiseHalt c op).sp = s.sp := rfl
@[simp] theorem State.raiseHalt_dt (c : HaltCause) (op : Word) : (s.raiseHalt c op).dt = s.dt := rfl
@[simp] theorem State.raiseHalt_st (c : HaltCause) (op : Word) : (s.raiseHalt c op).st = s.st := rfl
@[simp] theorem State.raiseHalt_plane (c : HaltCause) (op : Word) : (s.raiseHalt c op).plane = s.plane := rfl
@[simp] theorem State.raiseHalt_hires (c : HaltCause) (op : Word) : (s.raiseHalt c op).hires = s.hires := rfl
@[simp] theorem State.raiseHalt_disp (c : HaltCause) (op : Word) : (s.raiseHalt c op).disp = s.disp := rfl
@[simp] theorem State.raiseHalt_keys (c : HaltCause) (op : Word) : (s.raiseHalt c op).keys = s.keys := rfl
@[simp] theorem State.raiseHalt_waiting (c : HaltCause) (op : Word) : (s.raiseHalt c op).waiting = s.waiting := rfl
@[simp] theorem State.raiseHalt_waitReg (c : HaltCause) (op : Word) : (s.raiseHalt c op).waitReg = s.waitReg := rfl
@[simp] theorem State.raiseHalt_halted (c : HaltCause) (op : Word) : (s.raiseHalt c op).halted = true := rfl
@[simp] theorem State.raiseHalt_haltCause (c : HaltCause) (op : Word) : (s.raiseHalt c op).haltCause = c := rfl
@[simp] theorem State.raiseHalt_haltOp (c : HaltCause) (op : Word) : (s.raiseHalt c op).haltOp = op := rfl
@[simp] theorem State.raiseHalt_pattern (c : HaltCause) (op : Word) : (s.raiseHalt c op).pattern = s.pattern := rfl
@[simp] theorem State.raiseHalt_quirks (c : HaltCause) (op : Word) : (s.raiseHalt c op).quirks = s.quirks := rfl
@[simp] theorem State.raiseHalt_mem (c : HaltCause) (op : Word) : (s.raiseHalt c op).mem = s.mem := rfl
@[simp] theorem State.raiseHalt_rndIndex (c : HaltCause) (op : Word) : (s.raiseHalt c op).rndIndex = s.rndIndex := rfl

/-! ### setKey -/

@[simp] theorem State.setKey_v (k : BitVec 4) (b : Bool) : (s.setKey k b).v = s.v := rfl
@[simp] theorem State.setKey_pc (k : BitVec 4) (b : Bool) : (s.setKey k b).pc = s.pc := rfl
@[simp] theorem State.setKey_idx (k : BitVec 4) (b : Bool) : (s.setKey k b).idx = s.idx := rfl
@[simp] theorem State.setKey_flags (k : BitVec 4) (b : Bool) : (s.setKey k b).flags = s.flags := rfl
@[simp] theorem State.setKey_stack (k : BitVec 4) (b : Bool) : (s.setKey k b).stack = s.stack := rfl
@[simp] theorem State.setKey_sp (k : BitVec 4) (b : Bool) : (s.setKey k b).sp = s.sp := rfl
@[simp] theorem State.setKey_dt (k : BitVec 4) (b : Bool) : (s.setKey k b).dt = s.dt := rfl
@[simp] theorem State.setKey_st (k : BitVec 4) (b : Bool) : (s.setKey k b).st = s.st := rfl
@[simp] theorem State.setKey_plane (k : BitVec 4) (b : Bool) : (s.setKey k b).plane = s.plane := rfl
@[simp] theorem State.setKey_hires (k : BitVec 4) (b : Bool) : (s.setKey k b).hires = s.hires := rfl
@[simp] theorem State.setKey_disp (k : BitVec 4) (b : Bool) : (s.setKey k b).disp = s.disp := rfl
@[simp] theorem State.setKey_keys (k : BitVec 4) (b : Bool) : (s.setKey k b).keys = s.keys.set k.toNat b k.isLt := rfl
@[simp] theorem State.setKey_waiting (k : BitVec 4) (b : Bool) : (s.setKey k b).waiting = s.waiting := rfl
@[simp] theorem State.setKey_waitReg (k : BitVec 4) (b : Bool) : (s.setKey k b).waitReg = s.waitReg := rfl
@[simp] theorem State.setKey_halted (k : BitVec 4) (b : Bool) : (s.setKey k b).halted = s.halted := rfl
@[simp] theorem State.setKey_haltCause (k : BitVec 4) (b : Bool) : (s.setKey k b).haltCause = s.haltCause := rfl
@[simp] theorem State.setKey_haltOp (k : BitVec 4) (b : Bool) : (s.setKey k b).haltOp = s.haltOp := rfl
@[simp] theorem State.setKey_pattern (k : BitVec 4) (b : Bool) : (s.setKey k b).pattern = s.pattern := rfl
@[simp] theorem State.setKey_quirks (k : BitVec 4) (b : Bool) : (s.setKey k b).quirks = s.quirks := rfl
@[simp] theorem State.setKey_mem (k : BitVec 4) (b : Bool) : (s.setKey k b).mem = s.mem := rfl
@[simp] theorem State.setKey_rndIndex (k : BitVec 4) (b : Bool) : (s.setKey k b).rndIndex = s.rndIndex := rfl

/-! ### useRnd -/

@[simp] theorem State.useRnd_v : (s.useRnd).v = s.v := rfl
@[simp] theorem State.useRnd_pc : (s.useRnd).pc = s.pc := rfl
@[simp] theorem State.useRnd_idx : (s.useRnd).idx = s.idx := rfl
@[simp] theorem State.useRnd_flags : (s.useRnd).flags = s.flags := rfl
@[simp] theorem State.useRnd_stack : (s.useRnd).stack = s.stack := rfl
@[simp] theorem State.useRnd_sp : (s.useRnd).sp = s.sp := rfl
@[simp] theorem State.useRnd_dt : (s.useRnd).dt = s.dt := rfl
@[simp] theorem State.useRnd_st : (s.useRnd).st = s.st := rfl
@[simp] theorem State.useRnd_plane : (s.useRnd).plane = s.plane := rfl
@[simp] theorem State.useRnd_hires : (s.useRnd).hires = s.hires := rfl
@[simp] theorem State.useRnd_disp : (s.useRnd).disp = s.disp := rfl
@[simp] theorem State.useRnd_keys : (s.useRnd).keys = s.keys := rfl
@[simp] theorem State.useRnd_waiting : (s.useRnd).waiting = s.waiting := rfl
@[simp] theorem State.useRnd_waitReg : (s.useRnd).waitReg = s.waitReg := rfl
@[simp] theorem State.useRnd_halted : (s.useRnd).halted = s.halted := rfl
@[simp] theorem State.useRnd_haltCause : (s.useRnd).haltCause = s.haltCause := rfl
@[simp] theorem State.useRnd_haltOp : (s.useRnd).haltOp = s.haltOp := rfl
@[simp] theorem State.useRnd_pattern : (s.useRnd).pattern = s.pattern := rfl
@[simp] theorem State.useRnd_quirks : (s.useRnd).quirks = s.quirks := rfl
@[simp] theorem State.useRnd_mem : (s.useRnd).mem = s.mem := rfl
@[simp] theorem State.useRnd_rndIndex : (s.useRnd).rndIndex = s.rndIndex + 1 := rfl

/-! ### clearAll -/

@[simp] theorem State.clearAll_v : (s.clearAll).v = s.v := rfl
@[simp] theorem State.clearAll_pc : (s.clearAll).pc = s.pc := rfl
@[simp] theorem State.clearAll_idx : (s.clearAll).idx = s.idx := rfl
@[simp] theorem State.clearAll_flags : (s.clearAll).flags = s.flags := rfl
@[simp] theorem State.clearAll_stack : (s.clearAll).stack = s.stack := rfl
@[simp] theorem State.clearAll_sp : (s.clearAll).sp = s.sp := rfl
@[simp] theorem State.clearAll_dt : (s.clearAll).dt = s.dt := rfl
@[simp] theorem State.clearAll_st : (s.clearAll).st = s.st := rfl
@[simp] theorem State.clearAll_plane : (s.clearAll).plane = s.plane := rfl
@[simp] theorem State.clearAll_hires : (s.clearAll).hires = s.hires := rfl
@[simp] theorem State.clearAll_disp : (s.clearAll).disp = Display.blank := rfl
@[simp] theorem State.clearAll_keys : (s.clearAll).keys = s.keys := rfl
@[simp] theorem State.clearAll_waiting : (s.clearAll).waiting = s.waiting := rfl
@[simp] theorem State.clearAll_waitReg : (s.clearAll).waitReg = s.waitReg := rfl
@[simp] theorem State.clearAll_halted : (s.clearAll).halted = s.halted := rfl
@[simp] theorem State.clearAll_haltCause : (s.clearAll).haltCause = s.haltCause := rfl
@[simp] theorem State.clearAll_haltOp : (s.clearAll).haltOp = s.haltOp := rfl
@[simp] theorem State.clearAll_pattern : (s.clearAll).pattern = s.pattern := rfl
@[simp] theorem State.clearAll_quirks : (s.clearAll).quirks = s.quirks := rfl
@[simp] theorem State.clearAll_mem : (s.clearAll).mem = s.mem := rfl
@[simp] theorem State.clearAll_rndIndex : (s.clearAll).rndIndex = s.rndIndex := rfl

/-! ### scroll -/

@[simp] theorem State.scroll_v (src : ScrollSource) : (s.scroll src).v = s.v := rfl
@[simp] theorem State.scroll_pc (src : ScrollSource) : (s.scroll src).pc = s.pc := rfl
@[simp] theorem State.scroll_idx (src : ScrollSource) : (s.scroll src).idx = s.idx := rfl
@[simp] theorem State.scroll_flags (src : ScrollSource) : (s.scroll src).flags = s.flags := rfl
@[simp] theorem State.scroll_stack (src : ScrollSource) : (s.scroll src).stack = s.stack := rfl
@[simp] theorem State.scroll_sp (src : ScrollSource) : (s.scroll src).sp = s.sp := rfl
@[simp] theorem State.scroll_dt (src : ScrollSource) : (s.scroll src).dt = s.dt := rfl
@[simp] theorem State.scroll_st (src : ScrollSource) : (s.scroll src).st = s.st := rfl
@[simp] theorem State.scroll_plane (src : ScrollSource) : (s.scroll src).plane = s.plane := rfl
@[simp] theorem State.scroll_hires (src : ScrollSource) : (s.scroll src).hires = s.hires := rfl
@[simp] theorem State.scroll_keys (src : ScrollSource) : (s.scroll src).keys = s.keys := rfl
@[simp] theorem State.scroll_waiting (src : ScrollSource) : (s.scroll src).waiting = s.waiting := rfl
@[simp] theorem State.scroll_waitReg (src : ScrollSource) : (s.scroll src).waitReg = s.waitReg := rfl
@[simp] theorem State.scroll_halted (src : ScrollSource) : (s.scroll src).halted = s.halted := rfl
@[simp] theorem State.scroll_haltCause (src : ScrollSource) : (s.scroll src).haltCause = s.haltCause := rfl
@[simp] theorem State.scroll_haltOp (src : ScrollSource) : (s.scroll src).haltOp = s.haltOp := rfl
@[simp] theorem State.scroll_pattern (src : ScrollSource) : (s.scroll src).pattern = s.pattern := rfl
@[simp] theorem State.scroll_quirks (src : ScrollSource) : (s.scroll src).quirks = s.quirks := rfl
@[simp] theorem State.scroll_mem (src : ScrollSource) : (s.scroll src).mem = s.mem := rfl
@[simp] theorem State.scroll_rndIndex (src : ScrollSource) : (s.scroll src).rndIndex = s.rndIndex := rfl

/-! ### skipIf, writeFlagged and advanceIndex, which choose between updates -/

@[simp] theorem State.skipIf_v (c : Bool) : (s.skipIf c).v = s.v := by cases c <;> rfl
@[simp] theorem State.skipIf_idx (c : Bool) : (s.skipIf c).idx = s.idx := by cases c <;> rfl
@[simp] theorem State.skipIf_flags (c : Bool) : (s.skipIf c).flags = s.flags := by cases c <;> rfl
@[simp] theorem State.skipIf_stack (c : Bool) : (s.skipIf c).stack = s.stack := by cases c <;> rfl
@[simp] theorem State.skipIf_sp (c : Bool) : (s.skipIf c).sp = s.sp := by cases c <;> rfl
@[simp] theorem State.skipIf_dt (c : Bool) : (s.skipIf c).dt = s.dt := by cases c <;> rfl
@[simp] theorem State.skipIf_st (c : Bool) : (s.skipIf c).st = s.st := by cases c <;> rfl
@[simp] theorem State.skipIf_plane (c : Bool) : (s.skipIf c).plane = s.plane := by cases c <;> rfl
@[simp] theorem State.skipIf_hires (c : Bool) : (s.skipIf c).hires = s.hires := by cases c <;> rfl
@[simp] theorem State.skipIf_disp (c : Bool) : (s.skipIf c).disp = s.disp := by cases c <;> rfl
@[simp] theorem State.skipIf_keys (c : Bool) : (s.skipIf c).keys = s.keys := by cases c <;> rfl
@[simp] theorem State.skipIf_waiting (c : Bool) : (s.skipIf c).waiting = s.waiting := by cases c <;> rfl
@[simp] theorem State.skipIf_waitReg (c : Bool) : (s.skipIf c).waitReg = s.waitReg := by cases c <;> rfl
@[simp] theorem State.skipIf_halted (c : Bool) : (s.skipIf c).halted = s.halted := by cases c <;> rfl
@[simp] theorem State.skipIf_haltCause (c : Bool) : (s.skipIf c).haltCause = s.haltCause := by cases c <;> rfl
@[simp] theorem State.skipIf_haltOp (c : Bool) : (s.skipIf c).haltOp = s.haltOp := by cases c <;> rfl
@[simp] theorem State.skipIf_pattern (c : Bool) : (s.skipIf c).pattern = s.pattern := by cases c <;> rfl
@[simp] theorem State.skipIf_quirks (c : Bool) : (s.skipIf c).quirks = s.quirks := by cases c <;> rfl
@[simp] theorem State.skipIf_mem (c : Bool) : (s.skipIf c).mem = s.mem := by cases c <;> rfl
@[simp] theorem State.skipIf_rndIndex (c : Bool) : (s.skipIf c).rndIndex = s.rndIndex := by cases c <;> rfl

@[simp] theorem State.skipIf_pc (c : Bool) : (s.skipIf c).pc = if c then s.pc + 2 else s.pc := by cases c <;> rfl

@[simp] theorem State.writeFlagged_pc (x : Reg) (b : Byte) (c : Bool) : (s.writeFlagged x b c).pc = s.pc := by
  unfold State.writeFlagged; split <;> rfl
@[simp] theorem State.writeFlagged_idx (x : Reg) (b : Byte) (c : Bool) : (s.writeFlagged x b c).idx = s.idx := by
  unfold State.writeFlagged; split <;> rfl
@[simp] theorem State.writeFlagged_flags (x : Reg) (b : Byte) (c : Bool) : (s.writeFlagged x b c).flags = s.flags := by
  unfold State.writeFlagged; split <;> rfl
@[simp] theorem State.writeFlagged_stack (x : Reg) (b : Byte) (c : Bool) : (s.writeFlagged x b c).stack = s.stack := by
  unfold State.writeFlagged; split <;> rfl
@[simp] theorem State.writeFlagged_sp (x : Reg) (b : Byte) (c : Bool) : (s.writeFlagged x b c).sp = s.sp := by
  unfold State.writeFlagged; split <;> rfl
@[simp] theorem State.writeFlagged_dt (x : Reg) (b : Byte) (c : Bool) : (s.writeFlagged x b c).dt = s.dt := by
  unfold State.writeFlagged; split <;> rfl
@[simp] theorem State.writeFlagged_st (x : Reg) (b : Byte) (c : Bool) : (s.writeFlagged x b c).st = s.st := by
  unfold State.writeFlagged; split <;> rfl
@[simp] theorem State.writeFlagged_plane (x : Reg) (b : Byte) (c : Bool) : (s.writeFlagged x b c).plane = s.plane := by
  unfold State.writeFlagged; split <;> rfl
@[simp] theorem State.writeFlagged_hires (x : Reg) (b : Byte) (c : Bool) : (s.writeFlagged x b c).hires = s.hires := by
  unfold State.writeFlagged; split <;> rfl
@[simp] theorem State.writeFlagged_disp (x : Reg) (b : Byte) (c : Bool) : (s.writeFlagged x b c).disp = s.disp := by
  unfold State.writeFlagged; split <;> rfl
@[simp] theorem State.writeFlagged_keys (x : Reg) (b : Byte) (c : Bool) : (s.writeFlagged x b c).keys = s.keys := by
  unfold State.writeFlagged; split <;> rfl
@[simp] theorem State.writeFlagged_waiting (x : Reg) (b : Byte) (c : Bool) : (s.writeFlagged x b c).waiting = s.waiting := by
  unfold State.writeFlagged; split <;> rfl
@[simp] theorem State.writeFlagged_waitReg (x : Reg) (b : Byte) (c : Bool) : (s.writeFlagged x b c).waitReg = s.waitReg := by
  unfold State.writeFlagged; split <;> rfl
@[simp] theorem State.writeFlagged_halted (x : Reg) (b : Byte) (c : Bool) : (s.writeFlagged x b c).halted = s.halted := by
  unfold State.writeFlagged; split <;> rfl
@[simp] theorem State.writeFlagged_haltCause (x : Reg) (b : Byte) (c : Bool) : (s.writeFlagged x b c).haltCause = s.haltCause := by
  unfold State.writeFlagged; split <;> rfl
@[simp] theorem State.writeFlagged_haltOp (x : Reg) (b : Byte) (c : Bool) : (s.writeFlagged x b c).haltOp = s.haltOp := by
  unfold State.writeFlagged; split <;> rfl
@[simp] theorem State.writeFlagged_pattern (x : Reg) (b : Byte) (c : Bool) : (s.writeFlagged x b c).pattern = s.pattern := by
  unfold State.writeFlagged; split <;> rfl
@[simp] theorem State.writeFlagged_quirks (x : Reg) (b : Byte) (c : Bool) : (s.writeFlagged x b c).quirks = s.quirks := by
  unfold State.writeFlagged; split <;> rfl
@[simp] theorem State.writeFlagged_mem (x : Reg) (b : Byte) (c : Bool) : (s.writeFlagged x b c).mem = s.mem := by
  unfold State.writeFlagged; split <;> rfl
@[simp] theorem State.writeFlagged_rndIndex (x : Reg) (b : Byte) (c : Bool) : (s.writeFlagged x b c).rndIndex = s.rndIndex := by
  unfold State.writeFlagged; split <;> rfl

@[simp] theorem State.advanceIndex_v (x : Reg) : (s.advanceIndex x).v = s.v := by
  unfold State.advanceIndex; split <;> rfl
@[simp] theorem State.advanceIndex_pc (x : Reg) : (s.advanceIndex x).pc = s.pc := by
  unfold State.advanceIndex; split <;> rfl
@[simp] theorem State.advanceIndex_flags (x : Reg) : (s.advanceIndex x).flags = s.flags := by
  unfold State.advanceIndex; split <;> rfl
@[simp] theorem State.advanceIndex_stack (x : Reg) : (s.advanceIndex x).stack = s.stack := by
  unfold State.advanceIndex; split <;> rfl
@[simp] theorem State.advanceIndex_sp (x : Reg) : (s.advanceIndex x).sp = s.sp := by
  unfold State.advanceIndex; split <;> rfl
@[simp] theorem State.advanceIndex_dt (x : Reg) : (s.advanceIndex x).dt = s.dt := by
  unfold State.advanceIndex; split <;> rfl
@[simp] theorem State.advanceIndex_st (x : Reg) : (s.advanceIndex x).st = s.st := by
  unfold State.advanceIndex; split <;> rfl
@[simp] theorem State.advanceIndex_plane (x : Reg) : (s.advanceIndex x).plane = s.plane := by
  unfold State.advanceIndex; split <;> rfl
@[simp] theorem State.advanceIndex_hires (x : Reg) : (s.advanceIndex x).hires = s.hires := by
  unfold State.advanceIndex; split <;> rfl
@[simp] theorem State.advanceIndex_disp (x : Reg) : (s.advanceIndex x).disp = s.disp := by
  unfold State.advanceIndex; split <;> rfl
@[simp] theorem State.advanceIndex_keys (x : Reg) : (s.advanceIndex x).keys = s.keys := by
  unfold State.advanceIndex; split <;> rfl
@[simp] theorem State.advanceIndex_waiting (x : Reg) : (s.advanceIndex x).waiting = s.waiting := by
  unfold State.advanceIndex; split <;> rfl
@[simp] theorem State.advanceIndex_waitReg (x : Reg) : (s.advanceIndex x).waitReg = s.waitReg := by
  unfold State.advanceIndex; split <;> rfl
@[simp] theorem State.advanceIndex_halted (x : Reg) : (s.advanceIndex x).halted = s.halted := by
  unfold State.advanceIndex; split <;> rfl
@[simp] theorem State.advanceIndex_haltCause (x : Reg) : (s.advanceIndex x).haltCause = s.haltCause := by
  unfold State.advanceIndex; split <;> rfl
@[simp] theorem State.advanceIndex_haltOp (x : Reg) : (s.advanceIndex x).haltOp = s.haltOp := by
  unfold State.advanceIndex; split <;> rfl
@[simp] theorem State.advanceIndex_pattern (x : Reg) : (s.advanceIndex x).pattern = s.pattern := by
  unfold State.advanceIndex; split <;> rfl
@[simp] theorem State.advanceIndex_quirks (x : Reg) : (s.advanceIndex x).quirks = s.quirks := by
  unfold State.advanceIndex; split <;> rfl
@[simp] theorem State.advanceIndex_mem (x : Reg) : (s.advanceIndex x).mem = s.mem := by
  unfold State.advanceIndex; split <;> rfl
@[simp] theorem State.advanceIndex_rndIndex (x : Reg) : (s.advanceIndex x).rndIndex = s.rndIndex := by
  unfold State.advanceIndex; split <;> rfl

@[simp] theorem State.advanceIndex_idx (x : Reg) :
    (s.advanceIndex x).idx = if s.quirks.memAdvance then s.idx + BitVec.ofNat 16 (x.toNat + 1) else s.idx := by
  unfold State.advanceIndex State.ea; split <;> rfl

end Sys2Proof.Machine
end

