-- ==== Sys2Proof/Laws/Memory.lean ====
section
/-! SUPPORT. The laws of memory: a read after a write (20_memory.md R61, R62), and that every memory operation keeps the canonical
form. None needs the canonical form as a hypothesis but those about it. -/

namespace Sys2Proof.Machine

theorem Memory.read_erase (m : Memory) (a c : Nat) :
    (m.erase a).read c = if c = a then Memory.unlisted else m.read c := by
  induction m with
  | nil => simp [Memory.erase, Memory.read]
  | cons x xs ih =>
    simp only [Memory.erase, List.filter_cons] at ih ⊢
    by_cases hx : x.1 = a
    · by_cases hc : c = a
      · simp_all
      · have : ¬ a = c := fun h => hc h.symm
        simp_all [Memory.read]
    · by_cases hc : c = a
      · subst hc; simp_all [Memory.read]
      · by_cases h : x.1 = c <;> simp_all [Memory.read]

theorem Memory.read_insert (m : Memory) (a : Nat) (b : Byte) (c : Nat) (h : ∀ x ∈ m, x.1 ≠ a) :
    (m.insert a b).read c = if c = a then b else m.read c := by
  induction m with
  | nil => by_cases hc : c = a <;> simp [Memory.insert, Memory.read, eq_comm, hc]
  | cons x xs ih =>
    have hx : x.1 ≠ a := h x (by simp)
    have ih := ih fun y hy => h y (by simp [hy])
    unfold Memory.insert
    split
    · by_cases hc : c = a
      · simp [Memory.read, hc]
      · have : ¬ a = c := fun h => hc h.symm
        simp [Memory.read, hc, this]
    · by_cases hc : c = a
      · subst hc; simp [Memory.read, hx, ih]
      · by_cases hxc : x.1 = c <;> simp [Memory.read, hxc, hc, ih]

/-- A read after a write gives the byte written at its address and the old byte everywhere else (R61, R62). -/
theorem Memory.read_write (m : Memory) (a : Nat) (b : Byte) (c : Nat) :
    (m.write a b).read c = if c = a then b else m.read c := by
  unfold Memory.write
  split
  · rw [Memory.read_erase]; split <;> simp_all
  · rw [Memory.read_insert _ _ _ _ (by simp [Memory.erase]), Memory.read_erase]
    split <;> simp_all

theorem Memory.erase_wf {m : Memory} (h : m.wf) (a : Nat) : (m.erase a).wf :=
  ⟨h.1.filter _, fun c hc => h.2 c (List.mem_filter.mp hc).1⟩

theorem Memory.mem_insert (m : Memory) (a : Nat) (b : Byte) (c : Host.Cell) :
    c ∈ m.insert a b ↔ c = (a, b) ∨ c ∈ m := by
  induction m with
  | nil => simp [Memory.insert]
  | cons x xs ih => unfold Memory.insert; split <;> simp_all [or_left_comm]

theorem Memory.insert_wf {m : Memory} (h : m.wf) {a : Nat} (ha : a < 65536) {b : Byte} (hb : b ≠ Memory.unlisted)
    (hn : ∀ x ∈ m, x.1 ≠ a) : (m.insert a b).wf := by
  refine ⟨?_, fun c hc => ?_⟩
  · have hp := h.1
    clear h
    induction m with
    | nil => simp [Memory.insert]
    | cons x xs ih =>
      rw [List.pairwise_cons] at hp
      unfold Memory.insert
      split
      · rename_i hlt
        refine List.pairwise_cons.mpr ⟨fun y hy => ?_, List.pairwise_cons.mpr hp⟩
        rcases List.mem_cons.mp hy with rfl | hy
        · exact hlt
        · exact lt_trans hlt (hp.1 y hy)
      · rename_i hge
        refine List.pairwise_cons.mpr ⟨fun y hy => ?_, ih (fun z hz => hn z (by simp [hz])) hp.2⟩
        rcases (Memory.mem_insert _ _ _ _).mp hy with rfl | hy
        · have := hn x (by simp); simp only; omega
        · exact hp.1 y hy
  · rcases (Memory.mem_insert _ _ _ _).mp hc with rfl | hc
    · exact ⟨ha, hb⟩
    · exact h.2 c hc

/-- A write below 65536 keeps the canonical form. -/
theorem Memory.write_wf {m : Memory} (h : m.wf) {a : Nat} (ha : a < 65536) (b : Byte) : (m.write a b).wf := by
  unfold Memory.write
  split
  · exact Memory.erase_wf h a
  · exact Memory.insert_wf (Memory.erase_wf h a) ha ‹_› (by simp [Memory.erase])

/-- The loader keeps the canonical form as long as it stays below 65536. -/
theorem Memory.load_wf {m : Memory} (h : m.wf) {a : Nat} {bs : List Byte} (ha : a + bs.length ≤ 65536) :
    (m.load a bs).wf := by
  induction bs generalizing m a with
  | nil => exact h
  | cons b bs ih =>
    simp only [List.length_cons] at ha
    exact ih (Memory.write_wf h (by omega) b) (by omega)

/-- What the loader leaves at an address: the loaded byte inside its range, the old byte outside (R301). -/
theorem Memory.read_load (m : Memory) (a : Nat) (bs : List Byte) (c : Nat) :
    (m.load a bs).read c = if h : a ≤ c ∧ c - a < bs.length then bs[c - a]'h.2 else m.read c := by
  induction bs generalizing m a with
  | nil => simp [Memory.load]
  | cons b bs ih =>
    rw [Memory.load, ih, Memory.read_write]
    by_cases h1 : c = a
    · subst h1; simp
    · by_cases h2 : a ≤ c
      · obtain ⟨d, rfl⟩ : ∃ d, c = a + 1 + d := ⟨c - a - 1, by omega⟩
        have e1 : a + 1 + d - (a + 1) = d := by omega
        have e2 : a + 1 + d - a = d + 1 := by omega
        simp [h1, h2, e1, e2]
      · have : ¬ a + 1 ≤ c := by omega
        simp [h1, h2, this]

/-! ## The same through the state -/

/-- A byte write seen through the byte read (R61, R62). -/
@[simp] theorem State.readByte_writeByte (s : State) (a : Word) (b : Byte) (c : Word) :
    (s.writeByte a b).readByte c = if c = a then b else s.readByte c := by
  simp only [State.readByte, State.writeByte_mem, Memory.read_write]
  simp only [BitVec.toNat_inj]

theorem State.writeByte_mem_wf {s : State} (h : s.mem.wf) (a : Word) (b : Byte) : (s.writeByte a b).mem.wf :=
  Memory.write_wf h (by have := a.isLt; simpa using this) b

/-- Byte reads see only memory. -/
theorem State.readByte_congr {s t : State} (h : t.mem = s.mem) (a : Word) : t.readByte a = s.readByte a := by
  simp [State.readByte, h]

/-- A run of byte writes changes nothing but memory. -/
theorem State.storeBytes_eq (s : State) (a : Word) (bs : List Byte) :
    s.storeBytes a bs = { s with mem := (s.storeBytes a bs).mem } := by
  induction bs generalizing s a with
  | nil => rfl
  | cons b bs ih => rw [State.storeBytes, ih]; rfl

/-- A run of at most 65536 byte writes, seen through the byte read: the stored byte inside the range, the old byte outside it,
addresses wrapping (R62, R65). -/
theorem State.readByte_storeBytes (s : State) (a : Word) (bs : List Byte) (hl : bs.length ≤ 65536) (c : Word) :
    (s.storeBytes a bs).readByte c =
      if h : (c - a).toNat < bs.length then bs[(c - a).toNat]'h else s.readByte c := by
  induction bs generalizing s a with
  | nil => simp [State.storeBytes]
  | cons b bs ih =>
    simp only [List.length_cons] at hl ⊢
    rw [State.storeBytes, ih _ _ (by omega), State.readByte_writeByte]
    by_cases h1 : c = a
    · subst h1
      have : ¬ (c - (c + 1)).toNat < bs.length := by
        have : (c - (c + 1)).toNat = 65535 := by bv_omega
        omega
      rw [dif_neg this]; simp
    · have e : (c - a).toNat = (c - (a + 1)).toNat + 1 := by bv_omega
      simp [h1, e]

theorem State.storeBytes_mem_wf {s : State} (h : s.mem.wf) (a : Word) (bs : List Byte) : (s.storeBytes a bs).mem.wf := by
  induction bs generalizing s a with
  | nil => exact h
  | cons b bs ih => exact ih (State.writeByte_mem_wf h a b) _

/-- The frame of a run of byte writes: the bytes outside it, and every other part of the state. -/
theorem State.storeBytes_frame (s : State) (a : Word) (bs : List Byte) (hl : bs.length ≤ 65536) :
    SameExcept [.mem] s (s.storeBytes a bs) ∧ MemExcept a bs.length s (s.storeBytes a bs) := by
  refine ⟨fun p hp => ?_, fun c hc => ?_⟩
  · rw [State.storeBytes_eq]
    cases p <;> simp_all [Unchanged]
  · rw [State.readByte_storeBytes _ _ _ hl, dif_neg (by omega)]

end Sys2Proof.Machine
end

