-- ==== Sys2Proof/Laws/Regs.lean ====
section
/-! SUPPORT. The laws of the registers, the flag-writing procedure, the register ranges, the call stack and the keys
(10_state.md R20, R27, R36; 42_alu.md R161; 43_memory_index.md R198-R201). -/

namespace Sys2Proof.Machine

/-! ## General registers -/

@[simp] theorem State.getV_setV (s : State) (r : Reg) (b : Byte) (q : Reg) :
    (s.setV r b).getV q = if q = r then b else s.getV q := by
  simp only [State.getV, State.setV, Vector.getElem_set]
  by_cases h : q = r
  · simp [h]
  · have : r.toNat ≠ q.toNat := fun e => h (BitVec.eq_of_toNat_eq e.symm)
    simp [h, this]

/-- Register reads see only `v`. -/
theorem State.getV_congr {s t : State} (h : t.v = s.v) (r : Reg) : t.getV r = s.getV r := by
  simp [State.getV, h]

@[simp] theorem State.getV_advancePc (s : State) (r : Reg) : s.advancePc.getV r = s.getV r := rfl
@[simp] theorem State.getV_writeByte (s : State) (a : Word) (b : Byte) (r : Reg) : (s.writeByte a b).getV r = s.getV r := rfl
@[simp] theorem State.readByte_setV (s : State) (r : Reg) (b : Byte) (a : Word) : (s.setV r b).readByte a = s.readByte a := rfl
@[simp] theorem State.readByte_advancePc (s : State) (a : Word) : s.advancePc.readByte a = s.readByte a := rfl

/-- Two states with the same registers, read one by one, have the same register file. -/
theorem State.v_ext {s t : State} (h : ∀ r, t.getV r = s.getV r) : t.v = s.v := by
  refine Vector.ext fun i hi => ?_
  have := h (BitVec.ofNat 4 i)
  simp only [State.getV, BitVec.toNat_ofNat] at this
  have e : i % 2 ^ 4 = i := by omega
  simpa only [e] using this

/-- What the flag-writing procedure leaves in a register: away from register 15 the order of the two writes does not show; on it
the second write wins (R161). -/
theorem State.getV_writeFlagged (s : State) (x : Reg) (val : Byte) (flag : Bool) (q : Reg) :
    (s.writeFlagged x val flag).getV q =
      if q = vF then (if x = vF ∧ s.quirks.vfFirst = true then val else flagByte flag)
      else if q = x then val else s.getV q := by
  unfold State.writeFlagged
  by_cases hv : q = vF
  · subst hv
    by_cases hx : x = vF
    · subst hx; cases hq : s.quirks.vfFirst <;> simp
    · have hx' : ¬ vF = x := fun e => hx e.symm
      cases hq : s.quirks.vfFirst <;> simp [hx, hx']
  · cases hq : s.quirks.vfFirst <;> simp [hv]

/-! ## Register ranges -/

/-- Loading registers changes nothing but `v`. -/
theorem State.loadRegs_eq (s : State) (a : Word) (rs : List Reg) :
    s.loadRegs a rs = { s with v := (s.loadRegs a rs).v } := by
  induction rs generalizing s a with
  | nil => rfl
  | cons r rs ih => rw [State.loadRegs, ih]; rfl

/-- A register not in the range keeps its value. -/
theorem State.getV_loadRegs_of_not_mem (s : State) (a : Word) (rs : List Reg) (q : Reg) (h : q ∉ rs) :
    (s.loadRegs a rs).getV q = s.getV q := by
  induction rs generalizing s a with
  | nil => rfl
  | cons r rs ih =>
    rw [State.loadRegs, ih _ _ (by simp_all), State.getV_setV, if_neg (by simp_all)]

/-- The `k`-th register of a range without repeats receives the byte at the `k`-th address. -/
theorem State.getV_loadRegs (s : State) (a : Word) (rs : List Reg) (hn : rs.Nodup) (k : Nat) (hk : k < rs.length) :
    (s.loadRegs a rs).getV rs[k] = s.readByte (a + BitVec.ofNat 16 k) := by
  induction rs generalizing s a k with
  | nil => simp at hk
  | cons r rs ih =>
    rw [List.nodup_cons] at hn
    cases k with
    | zero => simp [State.loadRegs, State.getV_loadRegs_of_not_mem _ _ _ _ hn.1]
    | succ k =>
      simp only [State.loadRegs, List.getElem_cons_succ]
      rw [ih _ _ hn.2 k (by simpa using hk), State.readByte_setV]
      congr 1
      bv_omega

@[simp] theorem regsUpTo_length (x : Reg) : (regsUpTo x).length = x.toNat + 1 := by simp [regsUpTo]

@[simp] theorem regsUpTo_getElem (x : Reg) (k : Nat) (h : k < (regsUpTo x).length) :
    (regsUpTo x)[k] = BitVec.ofNat 4 k := by simp [regsUpTo]

@[simp] theorem regSpan_length (x y : Reg) : (regSpan x y).length = spanDist x y + 1 := by simp [regSpan]

@[simp] theorem regSpan_getElem (x y : Reg) (k : Nat) (h : k < (regSpan x y).length) :
    (regSpan x y)[k] = spanReg x y k := by simp [regSpan]

theorem mem_regsUpTo (x r : Reg) : r ∈ regsUpTo x ↔ r.toNat ≤ x.toNat := by
  simp only [regsUpTo, List.mem_map, List.mem_range]
  constructor
  · rintro ⟨k, hk, rfl⟩
    have := x.isLt
    simp only [BitVec.toNat_ofNat]; omega
  · intro h
    exact ⟨r.toNat, by omega, by simp⟩

theorem regsUpTo_nodup : ∀ x : Reg, (regsUpTo x).Nodup := by decide

theorem regSpan_nodup : ∀ x y : Reg, (regSpan x y).Nodup := by decide

/-! ## Call stack -/

theorem State.push_eq_some (s : State) (h : s.sp.val < 16) :
    s.push = some { s with stack := s.stack.set s.sp.val s.pc h, sp := ⟨s.sp.val + 1, Nat.succ_lt_succ h⟩ } := by
  simp [State.push, h]

theorem State.push_eq_none (s : State) (h : ¬ s.sp.val < 16) : s.push = none := by simp [State.push, h]

theorem State.pop_eq_some (s : State) (h : 0 < s.sp.val) :
    s.pop = some { s with
      pc := s.stack[s.sp.val - 1]'(by have := s.sp.isLt; omega)
      sp := ⟨s.sp.val - 1, by have := s.sp.isLt; omega⟩ } := by
  simp [State.pop, h]

theorem State.pop_eq_none (s : State) (h : ¬ 0 < s.sp.val) : s.pop = none := by simp [State.pop, h]

/-! ## Keys -/

@[simp] theorem State.key_setKey (s : State) (k : BitVec 4) (b : Bool) (j : BitVec 4) :
    (s.setKey k b).key j = if j = k then b else s.key j := by
  simp only [State.key, State.setKey, Vector.getElem_set]
  by_cases h : j = k
  · simp [h]
  · have : k.toNat ≠ j.toNat := fun e => h (BitVec.eq_of_toNat_eq e.symm)
    simp [h, this]

end Sys2Proof.Machine
end

