-- ==== Sys2Proof/Laws/Display.lean ====
section
/-! SUPPORT. The laws of the display: what each operation leaves in a cell (44_display.md R220-R231). -/

namespace Sys2Proof.Machine

@[simp] theorem Cell.bit_clear (k : PlaneId) : Cell.clear.bit k = false := by cases k <;> rfl

theorem Cell.ext_bit {c d : Cell} (h : ∀ k, c.bit k = d.bit k) : c = d := by
  have h1 := h .one
  have h2 := h .two
  cases c; cases d; simp_all [Cell.bit]

@[simp] theorem Cell.bit_flip (c : Cell) (k j : PlaneId) : (c.flip k).bit j = if j = k then !c.bit j else c.bit j := by
  cases k <;> cases j <;> simp [Cell.flip, Cell.bit]

/-- Outside the grid every cell reads clear. -/
theorem Display.cell_outside (d : Display) (c r : Nat) (h : ¬ (r < 64 ∧ c < 128)) : d.cell c r = Cell.clear := by
  rw [Display.cell, dif_neg h]

@[simp] theorem Display.cell_blank (c r : Nat) : Display.blank.cell c r = Cell.clear := by
  unfold Display.cell Display.blank; split <;> simp

/-- The cells of a tabulated display. -/
theorem Display.cell_tabulate (f : Nat → Nat → Cell) (c r : Nat) :
    (Display.tabulate f).cell c r = if r < 64 ∧ c < 128 then f c r else Cell.clear := by
  unfold Display.cell Display.tabulate; split <;> simp

/-- Inverting a bit of a cell of the grid changes that bit of that cell alone. -/
theorem Display.cell_flip (d : Display) (k : PlaneId) (c r c' r' : Nat) (h : r < 64 ∧ c < 128) :
    (d.flip k c r).cell c' r' = if c' = c ∧ r' = r then (d.cell c r).flip k else d.cell c' r' := by
  by_cases h' : r' < 64 ∧ c' < 128
  · rw [Display.cell, dif_pos h', Display.flip, dif_pos h]
    by_cases hr : r' = r
    · subst hr
      by_cases hc : c' = c
      · subst hc; simp
      · have hc' : ¬ c = c' := fun e => hc e.symm
        simp [Display.cell, h', hc, hc']
    · have hr' : ¬ r = r' := fun e => hr e.symm
      simp [Display.cell, h', hr, hr']
  · have : ¬ (c' = c ∧ r' = r) := by rintro ⟨rfl, rfl⟩; exact h' h
    rw [Display.cell_outside _ _ _ h', Display.cell_outside _ _ _ h', if_neg this]

/-- Two displays with the same cells are equal. -/
theorem Display.ext_cell {d e : Display} (h : ∀ c r, d.cell c r = e.cell c r) : d = e := by
  refine Vector.ext fun r hr => Vector.ext fun c hc => ?_
  have := h c r
  simpa only [Display.cell, dif_pos (And.intro hr hc)] using this

theorem State.width_le (s : State) : s.width ≤ 128 := by unfold State.width; split <;> omega
theorem State.height_le (s : State) : s.height ≤ 64 := by unfold State.height; split <;> omega
theorem State.width_pos (s : State) : 0 < s.width := by unfold State.width; split <;> omega
theorem State.height_pos (s : State) : 0 < s.height := by unfold State.height; split <;> omega

/-- What a scroll leaves in a plane of an active cell (R221). -/
theorem State.bit_scroll_active (s : State) (src : ScrollSource) (k : PlaneId) (c r : Nat)
    (hc : c < s.width) (hr : r < s.height) :
    ((s.scroll src).disp.cell c r).bit k =
      if s.selected k then s.disp.movedBit k (src c r) else (s.disp.cell c r).bit k := by
  have h : r < 64 ∧ c < 128 := ⟨lt_of_lt_of_le hr s.height_le, lt_of_lt_of_le hc s.width_le⟩
  unfold State.scroll
  simp only [Display.cell_tabulate, if_pos h, if_pos (And.intro hc hr)]
  cases k <;> rfl

/-- A scroll leaves the cells outside the active area alone (R221). -/
theorem State.cell_scroll_inactive (s : State) (src : ScrollSource) (c r : Nat) (h : ¬ (c < s.width ∧ r < s.height)) :
    (s.scroll src).disp.cell c r = s.disp.cell c r := by
  unfold State.scroll
  simp only [Display.cell_tabulate, if_neg h]
  split
  · rfl
  · rename_i h'; rw [Display.cell_outside _ _ _ h']

/-- A plotted pixel: nothing when clipped, else that bit of the wrapped cell inverted and the collision accumulated (R231). -/
theorem State.plot_eq (s : State) (k : PlaneId) (ux uy : Nat) (acc : Display × Bool) :
    s.plot k ux uy acc =
      if s.clipped ux uy then acc
      else (acc.1.flip k (ux % s.width) (uy % s.height), acc.2 || (acc.1.cell (ux % s.width) (uy % s.height)).bit k) := rfl

/-- The wrapped coordinate of a pixel is a cell of the grid. -/
theorem State.wrapped_in_grid (s : State) (ux uy : Nat) : uy % s.height < 64 ∧ ux % s.width < 128 :=
  ⟨lt_of_lt_of_le (Nat.mod_lt _ s.height_pos) s.height_le, lt_of_lt_of_le (Nat.mod_lt _ s.width_pos) s.width_le⟩

theorem mem_spritePoints (n : BitVec 4) (a b : Nat) :
    (a, b) ∈ spritePoints n ↔ a < spriteRows n ∧ b < spriteCols n := by
  simp [spritePoints]

end Sys2Proof.Machine
end

