-- ==== Sys2Proof/Laws/PerInstr.lean ====
section
/-! SUPPORT. The per-instruction family `Encoding`: an instruction as syntax is well-formed, keeps its row's fixed bits when it is
encoded (30_encoding.md R92, R95, R101), and takes 2 bytes, or 4 for the long form (R90, R99). -/

namespace Sys2Proof.Laws.Encoding

/-- The statement of the family for one instruction. -/
def Statement (i : Instr) : Prop :=
  i.wellFormed = true ∧ i.opcode.claims (encodeWord i) = true ∧ (encode i).length = i.length

/-! ## Fields stay clear of the fixed bits of their rows -/

theorem or_and (a b m : Word) : (a ||| b) &&& m = (a &&& m) ||| (b &&& m) := by
  ext i hi; simp [Bool.and_or_distrib_right]

theorem x_clear : ∀ x : BitVec 4, (BitVec.ofNat 16 x.toNat <<< 8) &&& (0xF0FF : Word) = 0 := by decide +kernel
theorem x_clear_xy : ∀ x : BitVec 4, (BitVec.ofNat 16 x.toNat <<< 8) &&& (0xF00F : Word) = 0 := by decide +kernel
theorem x_clear_xn : ∀ x : BitVec 4, (BitVec.ofNat 16 x.toNat <<< 8) &&& (0xF000 : Word) = 0 := by decide +kernel
theorem y_clear : ∀ y : BitVec 4, (BitVec.ofNat 16 y.toNat <<< 4) &&& (0xF00F : Word) = 0 := by decide +kernel
theorem y_clear_xyn : ∀ y : BitVec 4, (BitVec.ofNat 16 y.toNat <<< 4) &&& (0xF000 : Word) = 0 := by decide +kernel
theorem n_clear : ∀ n : BitVec 4, (BitVec.ofNat 16 n.toNat <<< 0) &&& (0xFFF0 : Word) = 0 := by decide +kernel
theorem n_clear_xyn : ∀ n : BitVec 4, (BitVec.ofNat 16 n.toNat <<< 0) &&& (0xF000 : Word) = 0 := by decide +kernel
theorem nn_clear : ∀ b : BitVec 8, (BitVec.ofNat 16 b.toNat <<< 0) &&& (0xF000 : Word) = 0 := by decide +kernel
theorem nnn_clear : ∀ a : BitVec 12, (BitVec.ofNat 16 a.toNat <<< 0) &&& (0xF000 : Word) = 0 := by decide +kernel

/-- The encoded word keeps its row's fixed bits, whatever the operands. -/
theorem claims_encodeWord (i : Instr) : i.opcode.claims (encodeWord i) = true := by
  cases i <;>
    simp only [Opcode.claims, encodeWord, Instr.opcode, Instr.operands, Operand.inWord, Field.lo, List.foldl, or_and,
      x_clear, x_clear_xy, x_clear_xn, y_clear, y_clear_xyn, n_clear, n_clear_xyn, nn_clear, nnn_clear] <;>
    decide

theorem wf_x (b : BitVec 4) : (Operand.mk .x b.toNat).wellFormed = true := decide_eq_true b.isLt
theorem wf_y (b : BitVec 4) : (Operand.mk .y b.toNat).wellFormed = true := decide_eq_true b.isLt
theorem wf_n (b : BitVec 4) : (Operand.mk .n b.toNat).wellFormed = true := decide_eq_true b.isLt
theorem wf_nn (b : BitVec 8) : (Operand.mk .nn b.toNat).wellFormed = true := decide_eq_true b.isLt
theorem wf_nnn (b : BitVec 12) : (Operand.mk .nnn b.toNat).wellFormed = true := decide_eq_true b.isLt
theorem wf_nnnn (b : BitVec 16) : (Operand.mk .nnnn b.toNat).wellFormed = true := decide_eq_true b.isLt

/-- The operand types bound every field, so every instruction is well-formed. -/
theorem wellFormed (i : Instr) : i.wellFormed = true := by
  cases i <;> simp [Instr.wellFormed, Instr.operands, wf_x, wf_y, wf_n, wf_nn, wf_nnn, wf_nnnn]

theorem length_encode (i : Instr) : (encode i).length = i.length := by cases i <;> rfl

theorem all (i : Instr) : Statement i := ⟨wellFormed i, claims_encodeWord i, length_encode i⟩

/-! ## The family, constructor by constructor -/

theorem halt : Statement (.halt) := all _
theorem scd (n : BitVec 4) : Statement (.scd n) := all _
theorem scu (n : BitVec 4) : Statement (.scu n) := all _
theorem cls : Statement (.cls) := all _
theorem ret : Statement (.ret) := all _
theorem scr : Statement (.scr) := all _
theorem scl : Statement (.scl) := all _
theorem exit : Statement (.exit) := all _
theorem lores : Statement (.lores) := all _
theorem hires : Statement (.hires) := all _
theorem jp (nnn : BitVec 12) : Statement (.jp nnn) := all _
theorem call (nnn : BitVec 12) : Statement (.call nnn) := all _
theorem sei (x : Reg) (nn : Byte) : Statement (.sei x nn) := all _
theorem snei (x : Reg) (nn : Byte) : Statement (.snei x nn) := all _
theorem se (x : Reg) (y : Reg) : Statement (.se x y) := all _
theorem str (x : Reg) (y : Reg) : Statement (.str x y) := all _
theorem ldr (x : Reg) (y : Reg) : Statement (.ldr x y) := all _
theorem ldi (x : Reg) (nn : Byte) : Statement (.ldi x nn) := all _
theorem addi (x : Reg) (nn : Byte) : Statement (.addi x nn) := all _
theorem mov (x : Reg) (y : Reg) : Statement (.mov x y) := all _
theorem or (x : Reg) (y : Reg) : Statement (.or x y) := all _
theorem and (x : Reg) (y : Reg) : Statement (.and x y) := all _
theorem xor (x : Reg) (y : Reg) : Statement (.xor x y) := all _
theorem add (x : Reg) (y : Reg) : Statement (.add x y) := all _
theorem sub (x : Reg) (y : Reg) : Statement (.sub x y) := all _
theorem shr (x : Reg) (y : Reg) : Statement (.shr x y) := all _
theorem rsb (x : Reg) (y : Reg) : Statement (.rsb x y) := all _
theorem shl (x : Reg) (y : Reg) : Statement (.shl x y) := all _
theorem sne (x : Reg) (y : Reg) : Statement (.sne x y) := all _
theorem idx (nnn : BitVec 12) : Statement (.idx nnn) := all _
theorem jpo (nnn : BitVec 12) : Statement (.jpo nnn) := all _
theorem rnd (x : Reg) (nn : Byte) : Statement (.rnd x nn) := all _
theorem draw (x : Reg) (y : Reg) (n : BitVec 4) : Statement (.draw x y n) := all _
theorem skp (x : Reg) : Statement (.skp x) := all _
theorem sknp (x : Reg) : Statement (.sknp x) := all _
theorem idxl (nnnn : Word) : Statement (.idxl nnnn) := all _
theorem plane (x : BitVec 4) : Statement (.plane x) := all _
theorem audio (x : BitVec 4) : Statement (.audio x) := all _
theorem gdt (x : Reg) : Statement (.gdt x) := all _
theorem waitk (x : Reg) : Statement (.waitk x) := all _
theorem sdt (x : Reg) : Statement (.sdt x) := all _
theorem sst (x : Reg) : Statement (.sst x) := all _
theorem addidx (x : Reg) : Statement (.addidx x) := all _
theorem font (x : Reg) : Statement (.font x) := all _
theorem bfont (x : Reg) : Statement (.bfont x) := all _
theorem bcd (x : Reg) : Statement (.bcd x) := all _
theorem stm (x : Reg) : Statement (.stm x) := all _
theorem ldm (x : Reg) : Statement (.ldm x) := all _
theorem stf (x : Reg) : Statement (.stf x) := all _
theorem ldf (x : Reg) : Statement (.ldf x) := all _

end Sys2Proof.Laws.Encoding
end

