-- ==== Sys2Proof/Laws/Reset.lean ====
section
/-! SUPPORT. The laws of Reset (70_reset_and_hazards.md R300, R301): what its memory reads as, and that its states meet the
invariants. -/

namespace Sys2Proof.Machine

/-- Reset's memory is in canonical form. -/
theorem ResetImage.memory_wf (img : ResetImage) : img.memory.wf := by
  have hl : img.fontLargeBytes.length ≤ 432 := by
    have : img.fontLargeBytes.length = 10 * img.fontLarge.length := by simp [ResetImage.fontLargeBytes, Nat.mul_comm]
    have := img.fontLarge_fits; omega
  have hp := img.program_fits
  unfold ResetImage.memory
  refine Memory.load_wf (Memory.load_wf (Memory.load_wf ⟨by simp, by simp⟩ ?_) ?_) ?_
  · simp
  · omega
  · omega

theorem reset_mem_wf : State.reset.mem.wf := ⟨by simp [State.reset], by simp [State.reset]⟩

/-- The state right after Reset meets the invariants, whatever the image. -/
theorem boot_inv (img : ResetImage) : (State.boot img).Inv where
  mem_wf := img.memory_wf
  inactive_clear c r _ := Display.cell_blank c r
  waiting_running h := by simp [State.boot, State.reset] at h
  running_record _ := ⟨rfl, rfl⟩
  halted_record h := by simp [State.boot, State.reset] at h

/-- `State.reset` is the Reset of the free quirks, fonts of zeros and no program (log entries 2, 3). -/
def blankImage : ResetImage where
  quirks := Config.quirks
  fontSmall := Vector.replicate 80 0
  fontLarge := []
  program := []
  fontLarge_fits := by decide
  program_fits := by decide

theorem boot_blankImage : State.boot blankImage = State.reset := by
  have : blankImage.memory = [] := by decide
  rw [State.boot, this]; rfl

end Sys2Proof.Machine
end

