-- ==== Sys2Proof/Laws/Sprite.lean ====
section
/-! SUPPORT. What one composite pass of a sprite draw does (44_display.md R230, R231): no two pixels of a pass reach the same cell, so
the pass inverts its plane's bit exactly in the cells it covers. -/

namespace Sys2Proof.Machine

/-- The step of `State.drawPass` for one sprite point. -/
def State.drawPoint (s : State) (n : BitVec 4) (ox oy : Nat) (pass : PlaneId × Word) (acc : Display × Bool) (p : Nat × Nat) :
    Display × Bool :=
  if s.spriteBit n pass.2 p.1 p.2 then s.plot pass.1 (ox + p.2) (oy + p.1) acc else acc

/-- The sprite point is drawn: its bit is set and its pixel is not clipped. -/
def State.drawn (s : State) (n : BitVec 4) (ox oy : Nat) (ptr : Word) (p : Nat × Nat) : Prop :=
  s.spriteBit n ptr p.1 p.2 = true ∧ s.clipped (ox + p.2) (oy + p.1) = false

/-- The cell a sprite point lands on, as (column, row). -/
def State.target (s : State) (ox oy : Nat) (p : Nat × Nat) : Nat × Nat :=
  ((ox + p.2) % s.width, (oy + p.1) % s.height)

theorem State.drawPass_eq_foldl (s : State) (n : BitVec 4) (ox oy : Nat) (acc : Display × Bool) (pass : PlaneId × Word) :
    s.drawPass n ox oy acc pass = (spritePoints n).foldl (s.drawPoint n ox oy pass) acc := rfl

/-- One point that is drawn inverts its target cell's bit and records a collision with what was there. -/
theorem State.drawPoint_of_drawn {s : State} {n : BitVec 4} {ox oy : Nat} {pass : PlaneId × Word} {p : Nat × Nat}
    (h : s.drawn n ox oy pass.2 p) (acc : Display × Bool) :
    s.drawPoint n ox oy pass acc p =
      (acc.1.flip pass.1 (s.target ox oy p).1 (s.target ox oy p).2,
        acc.2 || (acc.1.cell (s.target ox oy p).1 (s.target ox oy p).2).bit pass.1) := by
  simp [State.drawPoint, State.plot_eq, h.1, h.2, State.target]

/-- One point that is not drawn changes nothing. -/
theorem State.drawPoint_of_not_drawn {s : State} {n : BitVec 4} {ox oy : Nat} {pass : PlaneId × Word} {p : Nat × Nat}
    (h : ¬ s.drawn n ox oy pass.2 p) (acc : Display × Bool) : s.drawPoint n ox oy pass acc p = acc := by
  unfold State.drawn at h
  by_cases hb : s.spriteBit n pass.2 p.1 p.2 = true
  · have hc : s.clipped (ox + p.2) (oy + p.1) = true := by simpa [hb] using h
    simp [State.drawPoint, State.plot_eq, hc]
  · simp [State.drawPoint, hb]

/-- Drawing points with distinct targets inverts the plane's bit in exactly the cells some drawn point lands on, and the collision
is that one of those bits was set before. -/
theorem State.foldl_drawPoint (s : State) (n : BitVec 4) (ox oy : Nat) (pass : PlaneId × Word) (ps : List (Nat × Nat))
    (hd : ps.Pairwise fun p q => s.target ox oy p ≠ s.target ox oy q) (acc : Display × Bool) :
    (∀ j c r, ((ps.foldl (s.drawPoint n ox oy pass) acc).1.cell c r).bit j =
      open Classical in
      if j = pass.1 ∧ ∃ p ∈ ps, s.drawn n ox oy pass.2 p ∧ s.target ox oy p = (c, r) then !(acc.1.cell c r).bit j
      else (acc.1.cell c r).bit j) ∧
    ((ps.foldl (s.drawPoint n ox oy pass) acc).2 = true ↔ acc.2 = true ∨
      ∃ p ∈ ps, s.drawn n ox oy pass.2 p ∧
        (acc.1.cell (s.target ox oy p).1 (s.target ox oy p).2).bit pass.1 = true) := by
  classical
  induction ps generalizing acc with
  | nil => simp
  | cons q ps ih =>
    rw [List.pairwise_cons] at hd
    obtain ⟨hq, hd⟩ := hd
    have ih := ih hd
    simp only [List.foldl_cons]
    by_cases hdr : s.drawn n ox oy pass.2 q
    · rw [State.drawPoint_of_drawn hdr]
      have hg : (s.target ox oy q).2 < 64 ∧ (s.target ox oy q).1 < 128 := s.wrapped_in_grid (ox + q.2) (oy + q.1)
      have hcell : ∀ c r, (acc.1.flip pass.1 (s.target ox oy q).1 (s.target ox oy q).2).cell c r =
          if s.target ox oy q = (c, r) then (acc.1.cell c r).flip pass.1 else acc.1.cell c r := by
        intro c r
        rw [Display.cell_flip _ _ _ _ _ _ hg]
        by_cases e : s.target ox oy q = (c, r)
        · simp [e]
        · have : ¬ (c = (s.target ox oy q).1 ∧ r = (s.target ox oy q).2) := by rintro ⟨rfl, rfl⟩; exact e rfl
          rw [if_neg this, if_neg e]
      obtain ⟨ih1, ih2⟩ := ih (acc.1.flip pass.1 (s.target ox oy q).1 (s.target ox oy q).2,
        acc.2 || (acc.1.cell (s.target ox oy q).1 (s.target ox oy q).2).bit pass.1)
      refine ⟨fun j c r => ?_, ?_⟩
      · rw [ih1]
        simp only [hcell]
        by_cases e : s.target ox oy q = (c, r)
        · have hno : ¬ ∃ p ∈ ps, s.drawn n ox oy pass.2 p ∧ s.target ox oy p = (c, r) := by
            rintro ⟨p, hp, -, hpt⟩; exact hq p hp (e.trans hpt.symm)
          by_cases hj : j = pass.1 <;> simp [e, hj, hno, hdr]
        · by_cases hj : j = pass.1 <;> simp [e, hj]
      · rw [ih2]
        have hsame : ∀ p ∈ ps, (acc.1.flip pass.1 (s.target ox oy q).1 (s.target ox oy q).2).cell (s.target ox oy p).1
            (s.target ox oy p).2 = acc.1.cell (s.target ox oy p).1 (s.target ox oy p).2 := by
          intro p hp
          rw [hcell, if_neg (hq p hp)]
        simp only [Bool.or_eq_true, List.mem_cons, exists_eq_or_imp, hdr, true_and, or_assoc]
        refine or_congr Iff.rfl (or_congr Iff.rfl ?_)
        exact exists_congr fun p => and_congr_right fun hp => by rw [hsame p hp]
    · rw [State.drawPoint_of_not_drawn hdr]
      obtain ⟨ih1, ih2⟩ := ih acc
      refine ⟨fun j c r => ?_, ?_⟩
      · rw [ih1]; simp [hdr]
      · rw [ih2]; simp [hdr]

/-- No two points of a sprite land on the same cell: 16 is at most `W` and `H` (R231). -/
theorem spritePoints_targets (s : State) (n : BitVec 4) (ox oy : Nat) :
    (spritePoints n).Pairwise fun p q => s.target ox oy p ≠ s.target ox oy q := by
  have hr : spriteRows n ≤ 16 := by unfold spriteRows; have := n.isLt; split <;> omega
  have hc : spriteCols n ≤ 16 := by unfold spriteCols; split <;> omega
  have hw : s.width = 128 ∨ s.width = 64 := by unfold State.width; split <;> simp
  have hh : s.height = 64 ∨ s.height = 32 := by unfold State.height; split <;> simp
  have hnd : (spritePoints n).Nodup := by
    unfold spritePoints
    rw [List.nodup_flatMap]
    refine ⟨fun a _ => (List.nodup_range).map fun b b' h => by simpa using h, ?_⟩
    exact (List.nodup_range).imp fun {a b} hab p hp hq => by
      simp only [List.mem_map] at hp hq
      obtain ⟨_, _, rfl⟩ := hp
      obtain ⟨_, _, h⟩ := hq
      exact hab (by simpa using (congrArg Prod.fst h).symm)
  refine List.Pairwise.imp_of_mem ?_ hnd
  rintro ⟨a, b⟩ ⟨a', b'⟩ hp hq hne he
  rw [mem_spritePoints] at hp hq
  simp only [State.target, Prod.mk.injEq] at he
  apply hne
  rcases hw with hw | hw <;> rcases hh with hh | hh <;> rw [hw, hh] at he <;> simp only [Prod.mk.injEq] <;> omega

/-- What one pass leaves: its plane's bit inverted in the cells the sprite covers, every other bit kept, and the collision that one of
those bits was set before (R231). -/
theorem State.drawPass_spec (s : State) (n : BitVec 4) (ox oy : Nat) (acc : Display × Bool) (k : PlaneId) (ptr : Word) :
    (∀ j c r, ((s.drawPass n ox oy acc (k, ptr)).1.cell c r).bit j =
      open Classical in
      if j = k ∧ SpriteCovers s n ptr ox oy c r then !(acc.1.cell c r).bit j else (acc.1.cell c r).bit j) ∧
    ((s.drawPass n ox oy acc (k, ptr)).2 = true ↔ acc.2 = true ∨
      ∃ c r, SpriteCovers s n ptr ox oy c r ∧ (acc.1.cell c r).bit k = true) := by
  classical
  have hcov : ∀ c r, SpriteCovers s n ptr ox oy c r ↔
      ∃ p ∈ spritePoints n, s.drawn n ox oy ptr p ∧ s.target ox oy p = (c, r) := by
    intro c r
    constructor
    · rintro ⟨a, b, h1, h2, h3, h4, h5, h6⟩
      exact ⟨(a, b), (mem_spritePoints n a b).mpr ⟨h1, h2⟩, ⟨h3, h4⟩, Prod.ext h5 h6⟩
    · rintro ⟨⟨a, b⟩, hp, ⟨h3, h4⟩, ht⟩
      obtain ⟨h1, h2⟩ := (mem_spritePoints n a b).mp hp
      exact ⟨a, b, h1, h2, h3, h4, congrArg Prod.fst ht, congrArg Prod.snd ht⟩
  obtain ⟨h1, h2⟩ := s.foldl_drawPoint n ox oy (k, ptr) _ (spritePoints_targets s n ox oy) acc
  refine ⟨fun j c r => ?_, ?_⟩
  · rw [State.drawPass_eq_foldl, h1]; simp only [hcov]
  · rw [State.drawPass_eq_foldl, h2]
    refine or_congr Iff.rfl ⟨?_, ?_⟩
    · rintro ⟨p, hp, hd, hb⟩
      exact ⟨_, _, (hcov _ _).mpr ⟨p, hp, hd, rfl⟩, hb⟩
    · rintro ⟨c, r, hc, hb⟩
      obtain ⟨p, hp, hd, ht⟩ := (hcov c r).mp hc
      exact ⟨p, hp, hd, by rw [ht]; exact hb⟩

end Sys2Proof.Machine
end

