-- ==== Sys2Proof/Tests/Slice0.lean ====
section
/-! SUPPORT. The model's own tests. Expected values come from 95_test_vectors.md (the vector's id is in the name or the comment) or
are written out from the encodings of 30_encoding.md R96; the witnesses at the end meet the hypotheses of each statement. -/

namespace Sys2Proof.Tests

open Sys2Proof.Machine

/-! ## Helpers: the vectors' start state (all quirks false), changed as a vector says, and one step of a word at the pc -/

def noQuirks : Quirks := ⟨false, false, false, false, false⟩
def base : State := { State.reset with quirks := noQuirks }
def withRegs (s : State) (l : List (Reg × Byte)) : State := l.foldl (fun s p => s.setV p.1 p.2) s
def withMem (s : State) (a : Word) (bs : List Byte) : State := s.storeBytes a bs
def withIdx (s : State) (a : Word) : State := { s with idx := a }
def withPixels (s : State) (k : PlaneId) (l : List (Nat × Nat)) : State :=
  { s with disp := l.foldl (fun d p => d.flip k p.1 p.2) s.disp }
def after (s : State) (op : Word) : State :=
  match step (s.placeWords op 0) with
  | .next t => t
  | _ => s
def bytesAt (s : State) (a : Word) (n : Nat) : List Byte := (List.range n).map fun z => s.readByte (a + BitVec.ofNat 16 z)
def regsOf (s : State) (l : List Reg) : List Byte := l.map s.getV
def codes (s : State) (l : List (Nat × Nat)) : List (BitVec 2) := l.map fun p => s.dispCell p.1 p.2
def haltOf (s : State) : Bool × BitVec 3 × Word := (s.halted, s.haltCause.code, s.haltOp)

/-! ## WellFormed: an ill-formed operand for each check, and a well-formed one at the bound -/

theorem test_wf_x : (Operand.mk .x 16).wellFormed = false ∧ (Operand.mk .x 15).wellFormed = true := by decide
theorem test_wf_y : (Operand.mk .y 16).wellFormed = false ∧ (Operand.mk .y 15).wellFormed = true := by decide
theorem test_wf_n : (Operand.mk .n 16).wellFormed = false ∧ (Operand.mk .n 15).wellFormed = true := by decide
theorem test_wf_nn : (Operand.mk .nn 256).wellFormed = false ∧ (Operand.mk .nn 255).wellFormed = true := by decide
theorem test_wf_nnn : (Operand.mk .nnn 4096).wellFormed = false ∧ (Operand.mk .nnn 4095).wellFormed = true := by decide
theorem test_wf_nnnn : (Operand.mk .nnnn 65536).wellFormed = false ∧ (Operand.mk .nnnn 65535).wellFormed = true := by decide

/-! ## Decoding: every constructor by a word written out from R96 -/

theorem test_decode_family0 :
    [0x0000, 0x00C7, 0x00DF, 0x00E0, 0x00EE, 0x00FB, 0x00FC, 0x00FD, 0x00FE, 0x00FF].map (decodeOp · 0) =
      [some .halt, some (.scd 7), some (.scu 15), some .cls, some .ret, some .scr, some .scl, some .exit,
        some .lores, some .hires] := by decide

theorem test_decode_control :
    [0x1ABC, 0x2300, 0x3A14, 0x4A15, 0x5AB0, 0x9AB0, 0xB234, 0xE39E, 0xE3A1].map (decodeOp · 0) =
      [some (.jp 0xABC), some (.call 0x300), some (.sei 10 0x14), some (.snei 10 0x15), some (.se 10 11),
        some (.sne 10 11), some (.jpo 0x234), some (.skp 3), some (.sknp 3)] := by decide

theorem test_decode_alu :
    [0x6A14, 0x7105, 0x8120, 0x8121, 0x8122, 0x8123, 0x8124, 0x8125, 0x8126, 0x8127, 0x812E, 0xC10F].map (decodeOp · 0) =
      [some (.ldi 10 0x14), some (.addi 1 5), some (.mov 1 2), some (.or 1 2), some (.and 1 2), some (.xor 1 2),
        some (.add 1 2), some (.sub 1 2), some (.shr 1 2), some (.rsb 1 2), some (.shl 1 2), some (.rnd 1 0x0F)] := by
  decide

theorem test_decode_index :
    [0xA20C, 0xF000, 0xFA1E, 0xF329, 0xF330, 0xF133, 0xF255, 0xF265, 0x5132, 0x5313, 0xF175, 0xF185, 0xF702].map
        (decodeOp · 0x1234) =
      [some (.idx 0x20C), some (.idxl 0x1234), some (.addidx 10), some (.font 3), some (.bfont 3), some (.bcd 1),
        some (.stm 2), some (.ldm 2), some (.str 1 3), some (.ldr 3 1), some (.stf 1), some (.ldf 1),
        some (.audio 7)] := by decide

theorem test_decode_display_timers :
    [0xF301, 0xD125, 0xF307, 0xF50A, 0xF315, 0xF318].map (decodeOp · 0) =
      [some (.plane 3), some (.draw 1 2 5), some (.gdt 3), some (.waitk 5), some (.sdt 3), some (.sst 3)] := by decide

/-- T-F1 to T-F11: unknown words. -/
theorem test_decode_unknown :
    [0x0001, 0x5121, 0x9121, 0x8AB8, 0x801F, 0xE19F, 0xF100, 0xF1FF, 0x00FA, 0x0123, 0x00E1].map (decodeOp · 0) =
      List.replicate 11 none := by decide

theorem test_decode_bytes_rejects_by_name :
    decode [0x51, 0x21] = .error (.unknownOpcode 0x5121) ∧ decode [0xF0, 0x00, 0x12] = .error .truncated ∧
      decode [0xF0, 0x00, 0x12, 0x34, 0x55] = .ok (.idxl 0x1234, [0x55]) := by decide

theorem test_encode_bytes : encode (.draw 1 2 5) = [0xD1, 0x25] ∧ encode (.idxl 0x1234) = [0xF0, 0x00, 0x12, 0x34] := by decide

theorem test_table_word :
    decodeTableWord 16 0x6A14 = some (.ldi 10 0x14) ∧ decodeTableWord 32 0x1234F000 = some (.idxl 0x1234) ∧
      decodeTableWord 16 0x1234F000 = some (.idxl 0) := by decide

/-! ## Fetch and halts -/

theorem test_F2_unknown_halts : haltOf (after base 0x5121) = (true, 2, 0x5121) ∧ (after base 0x5121).pc = 0x0202 := by
  decide
theorem test_F12_halt : haltOf (after { base with pc := 0x0300 } 0x0000) = (true, 1, 0x0000) ∧
    (after { base with pc := 0x0300 } 0x0000).pc = 0x0302 := by decide
theorem test_F13_exit : haltOf (after { base with pc := 0x0208 } 0x00FD) = (true, 1, 0x00FD) ∧
    (after { base with pc := 0x0208 } 0x00FD).pc = 0x020A := by decide
theorem test_F14_odd_pc : (after { base with pc := 0x0201 } 0x6A14).pc = 0x0203 ∧
    (after { base with pc := 0x0201 } 0x6A14).getV 10 = 0x14 := by decide
theorem test_F16_fetch_wraps : (after { base with pc := 0xFFFF } 0x6A14).pc = 0x0001 ∧
    (after { base with pc := 0xFFFF } 0x6A14).getV 10 = 0x14 := by decide
theorem test_F18_waiting_step : (after { base with waiting := true, waitReg := 3 } 0x6A14).pc = 0x0200 ∧
    (after { base with waiting := true, waitReg := 3 } 0x6A14).getV 10 = 0 := by decide

/-! ## Control transfer -/

theorem test_C1_jp : (after base 0x1ABC).pc = 0x0ABC := by decide
theorem test_C4_call : let t := after { base with sp := 15 } 0x2300
    t.stack[15] = 0x0202 ∧ t.sp = 16 ∧ t.pc = 0x0300 := by decide
theorem test_C5_call_overflow : let t := after { base with sp := 16, pc := 0x0400 } 0x2300
    t.pc = 0x0402 ∧ haltOf t = (true, 3, 0x2300) ∧ t.sp = 16 := by decide
theorem test_C6_ret_underflow : let t := after base 0x00EE
    t.pc = 0x0202 ∧ haltOf t = (true, 4, 0x00EE) ∧ t.sp = 0 := by decide
theorem test_C8_ret : let t := after { base with sp := 2, stack := (base.stack.set 0 0x0208).set 1 0x030A } 0x00EE
    t.pc = 0x030A ∧ t.sp = 1 := by decide
theorem test_C11_jpo : (after (withRegs base [(0, 0x99), (2, 0x10)]) 0xB234).pc = 0x02CD := by decide
theorem test_C12_jpo_quirk :
    (after { withRegs base [(0, 0x99), (2, 0x10)] with quirks := { noQuirks with jumpVx := true } } 0xB234).pc = 0x0244 := by
  decide
theorem test_C13_sei : (after (withRegs base [(10, 0x14)]) 0x3A14).pc = 0x0204 := by decide
theorem test_C14_sei : (after (withRegs base [(10, 0x15)]) 0x3A14).pc = 0x0202 := by decide
theorem test_C15_snei : (after (withRegs base [(10, 0x14)]) 0x4A14).pc = 0x0202 := by decide
theorem test_C16_snei : (after (withRegs base [(10, 0x15)]) 0x4A14).pc = 0x0204 := by decide
theorem test_C17_se : (after (withRegs base [(10, 3), (11, 3)]) 0x5AB0).pc = 0x0204 := by decide
theorem test_C20_sne : (after (withRegs base [(10, 3), (11, 3)]) 0x9AB0).pc = 0x0202 := by decide
theorem test_C21_sne : (after (withRegs base [(10, 3), (11, 4)]) 0x9AB0).pc = 0x0204 := by decide
theorem test_C23_skp : (after ((withRegs base [(3, 0x1A)]).setKey 10 true) 0xE39E).pc = 0x0204 := by decide
theorem test_C26_sknp : (after ((withRegs base [(3, 0x1A)]).setKey 1 true) 0xE3A1).pc = 0x0204 := by decide
theorem test_C27_skip_wraps : (after { base with pc := 0xFFFC } 0x3000).pc = 0x0000 := by decide

/-! ## Registers and arithmetic -/

def vfFirst (s : State) : State := { s with quirks := { s.quirks with vfFirst := true } }
def shiftVx (s : State) : State := { s with quirks := { s.quirks with shiftVx := true } }

theorem test_A1_ldi : (after (withRegs base [(10, 1)]) 0x6AFF).getV 10 = 0xFF := by decide
theorem test_A2_addi : regsOf (after (withRegs base [(10, 0xFF), (15, 7)]) 0x7A01) [10, 15] = [0, 7] := by decide
theorem test_A4_mov : regsOf (after (withRegs base [(10, 1), (11, 0x5A), (15, 7)]) 0x8AB0) [10, 15] = [0x5A, 7] := by
  decide
theorem test_A5_or : regsOf (after (withRegs base [(10, 0xF0), (11, 0x0F), (15, 7)]) 0x8AB1) [10, 15] = [0xFF, 7] := by
  decide
theorem test_A6_and : regsOf (after (withRegs base [(10, 0xF3), (11, 0x3F), (15, 7)]) 0x8AB2) [10, 15] = [0x33, 7] := by
  decide
theorem test_A7_xor : regsOf (after (withRegs base [(10, 0xFF), (11, 0x0F), (15, 7)]) 0x8AB3) [10, 15] = [0xF0, 7] := by
  decide
theorem test_A13_add_vf : (after (withRegs base [(15, 0xFF), (11, 3)]) 0x8FB4).getV 15 = 1 ∧
    (after (vfFirst (withRegs base [(15, 0xFF), (11, 3)])) 0x8FB4).getV 15 = 2 := by decide
theorem test_A15_add_old_vf : regsOf (after (withRegs base [(10, 0xFF), (15, 2)]) 0x8AF4) [10, 15] = [1, 1] := by decide
theorem test_A16_sub_equal : regsOf (after (withRegs base [(10, 5), (11, 5)]) 0x8AB5) [10, 15] = [0, 1] := by decide
theorem test_A17_sub_borrow : regsOf (after (withRegs base [(10, 5), (11, 6), (15, 1)]) 0x8AB5) [10, 15] = [0xFF, 0] := by
  decide
theorem test_A21_rsb : regsOf (after (withRegs base [(10, 6), (11, 5), (15, 1)]) 0x8AB7) [10, 15] = [0xFF, 0] := by
  decide
theorem test_A22_rsb : regsOf (after (withRegs base [(10, 5), (11, 6)]) 0x8AB7) [10, 11, 15] = [1, 6, 1] := by decide
theorem test_A25_shr : regsOf (after (withRegs base [(10, 4), (11, 0x81)]) 0x8AB6) [10, 11, 15] = [0x40, 0x81, 1] := by
  decide
theorem test_A26_shr_quirk : regsOf (after (shiftVx (withRegs base [(10, 4), (11, 0x81), (15, 1)])) 0x8AB6) [10, 15] = [2, 0] := by
  decide
theorem test_A27_shl : regsOf (after (withRegs base [(10, 4), (11, 0x81)]) 0x8ABE) [10, 15] = [2, 1] := by decide
theorem test_A35_shl_vf : (after (vfFirst (shiftVx (withRegs base [(15, 0x81)]))) 0x8FFE).getV 15 = 2 := by decide
/-- T-A37: the mask 0 gives 0 whatever the random byte. -/
theorem test_A37_rnd : (after (withRegs base [(10, 0xFF)]) 0xCA00).getV 10 = 0 ∧
    (after base 0xCA00).rndIndex = 1 := by
  have h : Config.rnd 0 &&& 0#8 = 0 := by simp
  exact ⟨h, by decide⟩

/-! ## Index register, loads and stores, flag bank, audio -/

def memAdvance (s : State) : State := { s with quirks := { s.quirks with memAdvance := true } }
def ramp (b : Byte) (n : Nat) : List Byte := (List.range n).map fun z => b + BitVec.ofNat 8 z
def rampRegs (b : Byte) : List (Reg × Byte) := (List.range 16).map fun z => (BitVec.ofNat 4 z, b + BitVec.ofNat 8 z)
def allRegs : List Reg := regsUpTo 15

theorem test_M1_idx : (after (withIdx base 0x1234) 0xAFFF).idx = 0x0FFF := by decide
theorem test_M2_idxl :
    (match step (base.placeWords 0xF000 0x1234) with | .next t => (t.idx, t.pc) | _ => (0, 0)) = (0x1234, 0x0204) := by
  decide
theorem test_M3_idxl_wraps :
    (match step ({ base with pc := 0xFFFE }.placeWords 0xF000 0xABCD) with | .next t => (t.idx, t.pc) | _ => (0, 0)) =
      (0xABCD, 0x0002) := by decide
theorem test_M5_addidx : let t := after (withIdx (withRegs base [(10, 2), (15, 9)]) 0xFFFF) 0xFA1E
    t.idx = 0x0001 ∧ t.getV 15 = 9 := by decide
theorem test_M8_font : (after (withRegs base [(3, 0x1A)]) 0xF329).idx = 0x0032 := by decide
theorem test_M9_font : (after (withRegs base [(3, 0xFF)]) 0xF329).idx = 0x004B := by decide
theorem test_M10_bfont : (after (withRegs base [(3, 9)]) 0xF330).idx = 0x00AA := by decide
theorem test_M12_bfont : (after base 0xF330).idx = 0x0050 := by decide
theorem test_M15_bcd : bytesAt (after (withIdx (withRegs base [(1, 137)]) 0x0400) 0xF133) 0x0400 3 = [1, 3, 7] := by
  decide
theorem test_M16_bcd_wraps :
    bytesAt (after (withMem (withIdx (withRegs base [(1, 109)]) 0xFFFE) 0 [0xF0]) 0xF133) 0xFFFE 3 = [1, 0, 9] := by
  decide
theorem test_M17_stm : let t := after (withIdx (withRegs base [(0, 0xAA), (1, 0xBB), (2, 0xCC), (3, 0xDD)]) 0x0400) 0xF255
    bytesAt t 0x0400 4 = [0xAA, 0xBB, 0xCC, 0] ∧ t.idx = 0x0400 := by decide
theorem test_M21_stm_advance : let t := after (memAdvance (withIdx (withRegs base (rampRegs 1)) 0x0400)) 0xFF55
    bytesAt t 0x0400 16 = ramp 1 16 ∧ t.idx = 0x0410 := by decide
theorem test_M22_ldm : let t := after (withMem (withIdx (withRegs base [(2, 9), (3, 9)]) 0x0400) 0x0400 [1, 2, 3, 4]) 0xF265
    regsOf t [0, 1, 2, 3] = [1, 2, 3, 9] ∧ t.idx = 0x0400 := by decide
theorem test_M23_ldm_advance :
    (after (memAdvance (withMem (withIdx base 0x0400) 0x0400 [1, 2, 3, 4])) 0xF265).idx = 0x0403 := by decide
theorem test_M26_str_down :
    bytesAt (after (withIdx (withRegs base [(1, 0x11), (2, 0x22), (3, 0x33)]) 0x0400) 0x5312) 0x0400 3 =
      [0x33, 0x22, 0x11] := by decide
theorem test_M27_str_one : let t := after (memAdvance (withIdx (withRegs base [(2, 0x22)]) 0x0400)) 0x5222
    bytesAt t 0x0400 2 = [0x22, 0] ∧ t.idx = 0x0400 := by decide
theorem test_M29_ldr : regsOf (after (withMem (withIdx base 0x0400) 0x0400 [0x11, 0x22, 0x33]) 0x5133) [1, 2, 3] =
    [0x11, 0x22, 0x33] := by decide
theorem test_M30_ldr_down : regsOf (after (withMem (withIdx base 0x0400) 0x0400 [0x33, 0x22, 0x11]) 0x5313) [1, 2, 3] =
    [0x11, 0x22, 0x33] := by decide
theorem test_M32_stf :
    (after { withRegs base [(0, 0x12), (1, 0x34), (2, 0x56)] with flags := Vector.replicate 8 9 } 0xF175).flags.toList =
      [0x12, 0x34, 9, 9, 9, 9, 9, 9] := by decide
theorem test_M33_stf_all : (after (withRegs base (rampRegs 0xA0)) 0xFF75).flags.toList = ramp 0xA0 8 := by decide
theorem test_M35_ldf_all : regsOf
    (after { withRegs base (rampRegs 0xA0) with flags := Vector.ofFn fun z : Fin 8 => BitVec.ofNat 8 (z.val + 1) } 0xFF85)
    allRegs = ramp 1 8 ++ ramp 0xA8 8 := by decide
theorem test_M38_audio_wraps :
    (after (withMem (withIdx base 0xFFF8) 0xFFF8 (ramp 1 16)) 0xF002).pattern.toList = ramp 1 16 := by decide

/-! ## Display -/

def dirty : State := { withRegs base [(15, 1)] with plane := 2 }
theorem test_X1_cls :
    let t := after (withPixels (withPixels dirty .one [(0, 0), (127, 63)]) .two [(5, 5)]) 0x00E0
    codes t [(0, 0), (5, 5), (127, 63)] = [0, 0, 0] ∧ t.getV 15 = 1 ∧ t.plane = 2 ∧ t.hires = false := by decide
theorem test_X4_lores : let t := after (withPixels base .one [(0, 0)]) 0x00FE
    codes t [(0, 0)] = [0] ∧ t.hires = false := by decide
theorem test_X5_hires : let t := after (withPixels base .one [(0, 0)]) 0x00FF
    codes t [(0, 0)] = [0] ∧ t.hires = true := by decide
theorem test_X9_plane : (after { withRegs base [(5, 2)] with plane := 3 } 0xF501).plane = 1 := by decide
theorem test_S1_scd : codes (after (withPixels base .one [(5, 0), (6, 29), (7, 28)]) 0x00C3)
    [(5, 0), (5, 3), (6, 29), (6, 0), (7, 28), (7, 31)] = [0, 1, 0, 0, 0, 1] := by decide +kernel
theorem test_S6_scd_plane2 : codes
    (after (withPixels (withPixels { base with plane := 2 } .one [(0, 0), (1, 0)]) .two [(0, 0), (2, 0)]) 0x00C1)
    [(0, 0), (0, 1), (1, 0), (1, 1), (2, 0), (2, 1)] = [1, 2, 1, 0, 0, 2] := by decide +kernel
theorem test_S13_scu : codes (after (withPixels base .one [(0, 15), (0, 14), (0, 31)]) 0x00DF)
    [(0, 0), (0, 16), (0, 15), (0, 14), (0, 31)] = [1, 1, 0, 0, 0] := by decide +kernel
theorem test_S4_scr : codes (after (withPixels base .one [(0, 2), (62, 2), (59, 3), (60, 3)]) 0x00FB)
    [(4, 2), (63, 3), (0, 2), (2, 3), (66, 2)] = [1, 1, 0, 0, 0] := by decide +kernel
theorem test_S5_scl : codes (after (withPixels base .one [(4, 2), (1, 2), (3, 5), (63, 5)]) 0x00FC)
    [(0, 2), (59, 5), (63, 4), (63, 5)] = [1, 1, 0, 0] := by decide +kernel
/-- T-D3 and T-D4: the same draw wraps, and under the clipping quirk is cut at the edges. -/
def edgeDraw : State := withMem (withIdx (withRegs base [(0, 60), (1, 31)]) 0x0300) 0x0300 [0xFF, 0x81]
theorem test_D3_wrap_D4_clip :
    codes (after edgeDraw 0xD012) [(60, 31), (63, 31), (0, 31), (3, 31), (4, 31), (60, 0), (3, 0), (61, 0)] =
      [1, 1, 1, 1, 0, 1, 1, 0] ∧
    codes (after { edgeDraw with quirks := { noQuirks with clip := true } } 0xD012)
      [(60, 31), (63, 31), (0, 31), (60, 0), (3, 0)] = [1, 1, 0, 0, 0] := by decide
/-- T-D5d: both planes drawn, each from its own byte, a collision in each. -/
theorem test_D5d_planes : let t := after (withPixels (withPixels
      (withMem (withIdx { base with plane := 3 } 0x0300) 0x0300 [0xC0, 0xC0]) .one [(0, 0)]) .two [(1, 0)]) 0xD011
    codes t [(0, 0), (1, 0)] = [2, 1] ∧ t.getV 15 = 1 ∧ t.idx = 0x0300 := by decide
/-- T-D7h: the 16x16 form in hi-res, most significant bit first, wrapping at 128 and 64. -/
theorem test_D7h_draw16 : let t := after (withMem (withMem (withIdx (withRegs { base with hires := true } [(0, 120), (1, 56)])
      0x0300) 0x0300 [0x80, 0x01]) 0x031E [0x40, 0x02]) 0xD010
    codes t [(120, 56), (7, 56), (121, 7), (6, 7), (121, 56)] = [1, 1, 1, 1, 0] ∧ t.getV 15 = 0 := by decide
def spriteAtVf : State := withMem (withIdx (withRegs base [(15, 5), (0, 2)]) 0x0300) 0x0300 [0x80]
/-- T-D8b: the coordinate is the old `vF`. -/
theorem test_D8b_draw_vf :
    let t := after (withPixels spriteAtVf .one [(5, 2)]) 0xDF01
    codes t [(5, 2)] = [0] ∧ t.getV 15 = 1 := by decide

/-! ## Timers, keys, host events -/

def event (e : Event) (s : State) : State :=
  match deliver e s with
  | .next t => t
  | _ => s

theorem test_T1_gdt : (after { withRegs base [(3, 1)] with dt := 0x2A } 0xF307).getV 3 = 0x2A := by decide
theorem test_T2_sdt : (after (withRegs base [(3, 0x3C)]) 0xF315).dt = 0x3C := by decide
theorem test_T3_sst : (after (withRegs base [(3, 5)]) 0xF318).st = 5 := by decide
theorem test_T5_waitk : let t := after ((withRegs base [(5, 7)]).setKey 3 true) 0xF50A
    t.waiting = true ∧ t.waitReg = 5 ∧ t.pc = 0x0202 ∧ t.getV 5 = 7 := by decide
theorem test_T6_T7_tick : let t := event .tick { base with dt := 2, st := 1 }
    (t.dt, t.st) = (1, 0) ∧ (event .tick base).dt = 0 := by decide
theorem test_T8_T9_tick : (event .tick { base with dt := 5, waiting := true }).dt = 5 ∧
    (event .tick { base with dt := 5, halted := true }).dt = 4 := by decide
theorem test_T10_keyDown : let t := event (.keyDown 0xB) { withRegs base [(5, 7)] with waiting := true, waitReg := 5 }
    t.getV 5 = 0x0B ∧ t.waiting = false ∧ t.key 11 = true := by decide
theorem test_T11_keyDown : let t := event (.keyDown 0xB) (withRegs base [(5, 7)])
    t.getV 5 = 7 ∧ t.key 11 = true := by decide
theorem test_T12_keyUp : let t := event (.keyUp 0xB) ({ base with waiting := true, waitReg := 5 }.setKey 11 true)
    t.key 11 = false ∧ t.waiting = true := by decide

/-- A Reset with a glyph byte, a large glyph and program P1 (R301, S11). -/
def image : ResetImage where
  quirks := noQuirks
  fontSmall := Vector.ofFn fun z : Fin 80 => if z.val = 79 then 0x80 else 0
  fontLarge := [Vector.replicate 10 0x3C]
  program := [0x00, 0xE0, 0x12, 0x00]
  fontLarge_fits := by decide
  program_fits := by decide

theorem test_reset_memory : let t := event (.reset image) { base with pc := 5, halted := true }
    t.pc = 0x0200 ∧ t.halted = false ∧ bytesAt t 0x4F 2 = [0x80, 0x3C] ∧ bytesAt t 0x59 2 = [0x3C, 0] ∧
      bytesAt t 0x200 5 = [0x00, 0xE0, 0x12, 0x00, 0] := by decide +kernel

/-- Program P1 (S6): `CLS`, then a jump back to it. -/
theorem test_P1_two_steps : let t := event .step (event .step (State.boot image))
    t.pc = 0x0200 ∧ t.halted = false := by decide +kernel

/-! ## Witnesses: concrete states and operands that meet the hypotheses of each statement of Certificates/Slice0/Obligations.lean -/

def halted : State := { base with halted := true, haltCause := .exit }
def waiting : State := { base with waiting := true, waitReg := 5 }
/-- An outcome that passes a check on its next state is a next state that passes it. -/
theorem next_of_check {o : Result} (p : State → Bool)
    (h : (match o with | .next t => p t | .fault _ => false | .refused _ => false) = true) : ∃ t, o = .next t ∧ p t = true := by
  cases o with
  | next t => exact ⟨t, rfl, h⟩
  | fault f => cases f
  | refused r => exact absurd h (by simp)
def placed (op next : Word) : State := base.placeWords op next

theorem witness_DecodeEncodeRoundTrip : (Instr.draw 15 15 15).wellFormed = true := by decide
theorem witness_EncodeDecodeRoundTrip : decodeOp 0xF000 0xFFFF = some (.idxl 0xFFFF) := by decide
theorem witness_OpcodeRowsDisjoint :
    .ldi 10 0x14 ∈ candidates 0x6A14 0 ∧ (Instr.ldi 10 0x14).opcode.claims 0x6A14 = true := by decide
theorem witness_StepRunsDecodedInstruction :
    (halted.halted = true ∧ waiting.waiting = true) ∧
    ((placed 0x6A14 0).halted = false ∧ (placed 0x6A14 0).waiting = false ∧
      decodeOp ((placed 0x6A14 0).readWord 0x200) ((placed 0x6A14 0).readWord 0x202) = some (.ldi 10 0x14)) ∧
    decodeOp ((placed 0x5121 0).readWord 0x200) ((placed 0x5121 0).readWord 0x202) = none := by decide
theorem witness_HaltsArePrecise : base.halted = false ∧ ∃ t, step base = .next t ∧ t.halted = true :=
  ⟨rfl, next_of_check State.halted (by decide)⟩
theorem witness_HaltIsTerminal :
    halted.halted = true ∧ (∀ img, Event.step ≠ .reset img) ∧ deliver .step halted = .next halted := by
  refine ⟨rfl, fun _ h => (nomatch h), rfl⟩
theorem witness_StepKeepsInvariants : (State.boot image).Inv ∧ ∃ t, step (State.boot image) = .next t :=
  have ⟨t, h, _⟩ := next_of_check (o := step (State.boot image)) (fun _ => true) (by decide +kernel)
  ⟨boot_inv image, t, h⟩
theorem witness_EventsKeepInvariants : (State.boot image).Inv ∧ deliver .sample (State.boot image) = .next (State.boot image) :=
  ⟨boot_inv image, rfl⟩
theorem witness_ReachableStatesMeetInvariants : Reachable (State.boot image) := .boot image
theorem witness_QuirksAreConstant : (∀ img, Event.tick ≠ .reset img) ∧ deliver .tick base = .next base.tick :=
  ⟨fun _ h => (nomatch h), rfl⟩
theorem witness_InstructionFrames : exec (.ldi 0 1) base = .next (base.setV 0 1) := rfl
theorem witness_RegisterFrames : exec (.add 15 0) base = .next (base.writeFlagged 15 0 false) ∧ 1 ∉ regsWritten (.add 15 0) :=
  ⟨rfl, by decide⟩
theorem witness_CallPushesOrOverflows : { base with sp := 15 }.sp.val < 16 ∧ { base with sp := 16 }.sp.val = 16 := by decide
theorem witness_ReturnPopsOrUnderflows : 0 < { base with sp := 1 }.sp.val ∧ base.sp.val = 0 := by decide
theorem witness_CallThenReturnComesBack : { base with sp := 15 }.sp.val < 16 := by decide
theorem witness_IndexLongImmediate : (placed 0xF000 0x1234).halted = false ∧ (placed 0xF000 0x1234).waiting = false ∧
    (placed 0xF000 0x1234).readByte 0x200 = 0xF0 ∧ (placed 0xF000 0x1234).readByte 0x201 = 0x00 := by decide
theorem witness_FlaggedResult : (0 : Reg) ≠ vF ∧ (15 : Reg) = vF := by decide
theorem witness_StoreRegistersUpTo : (15 : Reg).toNat ≤ (15 : Reg).toNat ∧ 1 ≤ ((0 : Word) - 1).toNat := by decide
theorem witness_RegisterRange : Between 1 3 3 ∧ Between 3 1 1 ∧ Between 2 2 2 ∧ ¬ Between 1 3 4 ∧ ¬ Between 3 1 0 := by
  unfold Between; decide
theorem witness_RangeRoundTrip : exec (.str 1 3) base = .next (base.storeBytes 0 [0, 0, 0]) ∧
    (base.storeBytes 0 [0, 0, 0]).idx = base.idx := ⟨rfl, rfl⟩
theorem witness_FlagBankCopies : 7 ≤ min (15 : Reg).toNat 7 ∧ min (15 : Reg).toNat 7 < (8 : Reg).toNat ∧
    min (0 : Reg).toNat 7 < (1 : Reg).toNat := by decide
theorem witness_ScrollsShiftSelectedPlanes : 63 < base.width ∧ 31 < base.height ∧ ¬ (64 < base.width ∧ 0 < base.height) := by
  decide
/-- The last column of the sprite `FF` at (60, 31) wraps to column 3; the next row of the display gets nothing from it. -/
theorem witness_DrawXorsSprite : edgeDraw.selected .one = true ∧ SpriteCovers edgeDraw 1 0x0300 60 31 3 31 ∧
    ¬ SpriteCovers edgeDraw 1 0x0300 60 31 3 0 := by
  refine ⟨by decide, ⟨0, 7, by decide, by decide, by decide, by decide, by decide, by decide⟩, ?_⟩
  rintro ⟨a, b, ha, -, -, -, -, hr⟩
  have ha : a = 0 := by simpa [spriteRows] using ha
  subst ha
  exact absurd hr (by decide)
theorem witness_DrawCollides : SpriteCollides (withPixels edgeDraw .one [(3, 31)]) 1 60 31 :=
  ⟨.one, 3, 31, by decide, ⟨0, 7, by decide, by decide, by decide, by decide, by decide, by decide⟩, by decide⟩
theorem witness_DrawCollidesNot : ¬ SpriteCollides { edgeDraw with plane := 0 } 1 60 31 := by
  rintro ⟨k, c, r, h, -⟩
  cases k <;> exact absurd h (by decide)
theorem witness_DrawTwiceRestores : ∃ t, exec (.draw 0 1 1) edgeDraw = .next t ∧ t.plane = edgeDraw.plane ∧
    t.hires = edgeDraw.hires ∧ t.idx = edgeDraw.idx ∧ t.quirks = edgeDraw.quirks ∧
    (∀ a, t.readByte a = edgeDraw.readByte a) ∧ t.getV 0 = edgeDraw.getV 0 ∧ t.getV 1 = edgeDraw.getV 1 ∧
    edgeDraw.selected .one = true ∧ SpriteCovers edgeDraw 1 0x0300 60 31 3 31 ∧
    (edgeDraw.disp.cell 3 31).bit .one = false :=
  ⟨_, rfl, rfl, rfl, rfl, rfl, fun _ => rfl, by simp; rfl, by simp; rfl, by decide,
    witness_DrawXorsSprite.2.1, by decide⟩
theorem witness_WaitKeySuspends : waiting.waiting = true := rfl
theorem witness_KeyEventsMaintainKeys : base.waiting = false := rfl
theorem witness_SampleReadsOutputs : 127 < { base with hires := true }.width ∧ 63 < { base with hires := true }.height := by
  decide
theorem witness_ResetEventLeavesResetState : (79 < 80 ∧ 89 < 80 + 10 * image.fontLarge.length) ∧
    ¬ 90 < 80 + 10 * image.fontLarge.length ∧ (0x203 - 0x200 < image.program.length ∧ 65535 < 65536) := by decide

end Sys2Proof.Tests
end

section
/-! Proofs for 10_state.md, R40: the configuration `Q` changes at Reset only. Each shared operation keeps it, so every instruction
does, so every Step does, so every event but Reset does. -/

namespace Sys2Proof.Machine

/-! ### The configuration under the operations that recurse or may fail -/

@[simp] theorem State.storeBytes_quirks (s : State) (a : Word) (bs : List Byte) : (s.storeBytes a bs).quirks = s.quirks := by
  rw [State.storeBytes_eq]

@[simp] theorem State.loadRegs_quirks (s : State) (a : Word) (rs : List Reg) : (s.loadRegs a rs).quirks = s.quirks := by
  rw [State.loadRegs_eq]

theorem State.quirks_of_push {s t : State} (h : s.push = some t) : t.quirks = s.quirks := by
  by_cases hsp : s.sp.val < 16
  · rw [State.push_eq_some s hsp] at h
    cases h; rfl
  · simp [State.push_eq_none s hsp] at h

theorem State.quirks_of_pop {s t : State} (h : s.pop = some t) : t.quirks = s.quirks := by
  by_cases hsp : 0 < s.sp.val
  · rw [State.pop_eq_some s hsp] at h
    cases h; rfl
  · simp [State.pop_eq_none s hsp] at h

/-! ### Instructions, steps and events -/

/-- `RET` keeps the configuration, whether it pops or halts (R141, R264). -/
theorem execRet_quirks {s t : State} (h : execRet s = .next t) : t.quirks = s.quirks := by
  cases hp : s.pop <;> simp only [execRet, hp, Host.Outcome.next.injEq] at h <;> subst h
  case none => exact s.raiseHalt_quirks _ _
  case some => exact State.quirks_of_pop hp

/-- `CALL` keeps the configuration, whether it pushes or halts (R143, R263). -/
theorem execCall_quirks {nnn : BitVec 12} {s t : State} (h : execCall nnn s = .next t) : t.quirks = s.quirks := by
  cases hp : s.push <;> simp only [execCall, hp, Host.Outcome.next.injEq] at h <;> subst h
  case none => exact s.raiseHalt_quirks _ _
  case some u => exact (u.jump_quirks _).trans (State.quirks_of_push hp)

/-- No instruction changes the configuration. The arms named here end in an operation that chooses, recurses or may fail; every
other arm is a plain update of other fields. -/
theorem exec_quirks {i : Instr} {s t : State} (h : exec i s = .next t) : t.quirks = s.quirks := by
  cases i with
  | ret => exact execRet_quirks h
  | call nnn => exact execCall_quirks h
  | sei x nn | snei x nn | se x y | sne x y | skp x | sknp x => cases h; exact s.skipIf_quirks _
  | add x y | sub x y | shr x y | rsb x y | shl x y => cases h; exact s.writeFlagged_quirks _ _ _
  | bcd x | str x y => cases h; exact s.storeBytes_quirks _ _
  | ldr x y => cases h; exact s.loadRegs_quirks _ _
  | stm x => cases h; exact (State.advanceIndex_quirks _ x).trans (s.storeBytes_quirks _ _)
  | ldm x => cases h; exact (State.advanceIndex_quirks _ x).trans (s.loadRegs_quirks _ _)
  | _ => cases h; rfl

/-- What a Step can do: nothing when stalled, run the fetched instruction, or halt on an unknown opcode (R120, R123, R126). -/
theorem step_cases {s t : State} (h : step s = .next t) :
    (s.stalled = true ∧ t = s) ∨
    (s.stalled = false ∧ ∃ i, s.fetchInstr = some i ∧ exec i s.advancePc = .next t) ∨
    (s.stalled = false ∧ s.fetchInstr = none ∧ t = s.haltUnknown) := by
  unfold step at h
  by_cases hs : s.stalled = true
  · rw [if_pos hs] at h
    cases h; exact .inl ⟨hs, rfl⟩
  · rw [if_neg hs] at h
    rw [Bool.not_eq_true] at hs
    cases hf : s.fetchInstr <;> rw [hf] at h
    case none => cases h; exact .inr (.inr ⟨hs, rfl, rfl⟩)
    case some i => exact .inr (.inl ⟨hs, i, rfl, h⟩)

theorem step_quirks {s t : State} (h : step s = .next t) : t.quirks = s.quirks := by
  obtain ⟨-, rfl⟩ | ⟨-, i, -, he⟩ | ⟨-, -, rfl⟩ := step_cases h
  · rfl
  · exact (exec_quirks he).trans s.advancePc_quirks
  · exact (State.raiseHalt_quirks _ _ _).trans s.advancePc_quirks

@[simp] theorem State.tick_quirks (s : State) : s.tick.quirks = s.quirks := by
  unfold State.tick; split <;> rfl

@[simp] theorem State.keyDown_quirks (s : State) (k : BitVec 4) : (s.keyDown k).quirks = s.quirks := by
  unfold State.keyDown; split <;> rfl

/-- No event but Reset changes the configuration (R40). -/
theorem deliver_quirks {e : Event} {s t : State} (he : ∀ img, e ≠ .reset img) (h : deliver e s = .next t) :
    t.quirks = s.quirks := by
  cases e with
  | reset img => exact absurd rfl (he img)
  | step => exact step_quirks h
  | tick => cases h; exact s.tick_quirks
  | keyDown k => cases h; exact s.keyDown_quirks k
  | keyUp k => cases h; exact s.setKey_quirks k false
  | sample => cases h; rfl

/-- Settles O17: Reset loads the image's quirks, and every other event keeps them (`deliver_quirks`). -/
theorem quirksAreConstant : Obligations.QuirksAreConstant :=
  ⟨fun _ _ => ⟨_, rfl, rfl⟩, fun _ _ _ he h => deliver_quirks he h⟩

end Sys2Proof.Machine
end

section
/-! Proofs for 20_memory.md, R61 and R62: a byte read after a byte write, and the write's frame. -/

namespace Sys2Proof.Machine

/-- Two numbers name the same 16-bit address exactly when they agree modulo 65536 (R65). -/
theorem address_eq_iff (a c : Nat) : BitVec.ofNat 16 c = BitVec.ofNat 16 a ↔ c % 65536 = a % 65536 := by
  simp only [← BitVec.toNat_inj, BitVec.toNat_ofNat, Nat.reducePow]

/-- A byte write changes no part of the state but memory (R62). -/
theorem State.writeByte_frame (s : State) (a : Word) (b : Byte) : SameExcept [.mem] s (s.writeByte a b) := by
  intro p hp
  cases p with
  | mem => exact absurd (List.mem_singleton.mpr rfl) hp
  | stack | wait => exact ⟨rfl, rfl⟩
  | halt => exact ⟨rfl, rfl, rfl⟩
  | _ => rfl

/-- Settles O21: the read sees the write exactly at its own address (`State.readByte_writeByte`), and 16-bit addresses are numbers
modulo 65536 (`address_eq_iff`). -/
theorem readAfterWrite : Obligations.ReadAfterWrite := by
  intro s a c b
  refine ⟨?_, s.writeByte_frame _ b⟩
  rw [State.readByte_writeByte]
  simp only [address_eq_iff]

end Sys2Proof.Machine
end

section
/-! Proofs for 41_control_transfer.md, R142, R144 to R150: the two jumps and the six skips. A jump writes the pc alone, and a skip is
a jump to the next instruction or past it, so all eight share one frame. -/

namespace Sys2Proof.Machine

/-! ### The pc's updates -/

/-- A jump changes no part of the state but the pc. -/
theorem State.jump_frame (s : State) (a : Word) : SameExcept [.pc] s (s.jump a) := by
  intro p hp
  cases p with
  | pc => exact absurd (List.mem_singleton.mpr rfl) hp
  | stack | wait => exact ⟨rfl, rfl⟩
  | halt => exact ⟨rfl, rfl, rfl⟩
  | mem => exact fun _ => rfl
  | _ => rfl

theorem State.skipIf_eq_jump (s : State) (c : Bool) : s.skipIf c = s.jump (if c then s.pc + 2 else s.pc) := by
  cases c <;> rfl

/-- A skip, taken or not, changes no part of the state but the pc (R151). -/
theorem State.skipIf_frame (s : State) (c : Bool) : SameExcept [.pc] s (s.skipIf c) :=
  s.skipIf_eq_jump c ▸ s.jump_frame _

/-- An instruction that skips on a condition equivalent to `p` completes, moves the pc on exactly when `p` holds, and writes
nothing else. -/
theorem exec_skips_when {i : Instr} {s : State} {c : Bool} {p : Prop} [Decidable p]
    (he : exec i s = .next (s.skipIf c)) (hc : c = true ↔ p) :
    ∃ t, exec i s = .next t ∧ t.pc = (if p then s.pc + 2 else s.pc) ∧ SameExcept [.pc] s t :=
  ⟨_, he, by simp only [State.skipIf_pc, hc], s.skipIf_frame c⟩

/-- The negated form: the pc moves on exactly when `p` fails. -/
theorem exec_skips_unless {i : Instr} {s : State} {c : Bool} {p : Prop} [Decidable p]
    (he : exec i s = .next (s.skipIf c)) (hc : c = true ↔ ¬ p) :
    ∃ t, exec i s = .next t ∧ t.pc = (if p then s.pc else s.pc + 2) ∧ SameExcept [.pc] s t := by
  obtain ⟨t, ht, hpc, hframe⟩ := exec_skips_when he hc
  exact ⟨t, ht, hpc.trans (ite_not ..), hframe⟩

/-! ### Targets and conditions -/

/-- The 12-bit address is zero-extended (R93). -/
@[simp] theorem addr12_toNat (nnn : BitVec 12) : (addr12 nnn).toNat = nnn.toNat :=
  BitVec.toNat_setWidth_of_le (by decide)

/-- The register `JPO` adds, with the target's high nibble written as a quotient (R144). -/
theorem State.jumpReg_eq (s : State) (nnn : BitVec 12) :
    s.jumpReg nnn = if s.quirks.jumpVx then BitVec.ofNat 4 (nnn.toNat / 256) else 0 := by
  have hnibble : nnn.extractLsb' 8 4 = BitVec.ofNat 4 (nnn.toNat / 256) := by
    rw [BitVec.extractLsb', Nat.shiftRight_eq_div_pow]
  rw [State.jumpReg, hnibble]

theorem beq_iff_toNat_eq (a b : Byte) : (a == b) = true ↔ a.toNat = b.toNat :=
  beq_iff_eq.trans BitVec.toNat_inj.symm

theorem bne_iff_toNat_ne (a b : Byte) : (a != b) = true ↔ ¬ a.toNat = b.toNat :=
  bne_iff_ne.trans (not_congr BitVec.toNat_inj.symm)

@[simp] theorem lowNibble_toNat (b : Byte) : (lowNibble b).toNat = b.toNat % 16 := by
  simp [lowNibble]

/-- The key a byte names is the one numbered by its remainder modulo 16 (R149). -/
theorem State.key_lowNibble (s : State) (b : Byte) :
    s.key (lowNibble b) = s.keys[b.toNat % 16]'(Nat.mod_lt _ (by decide)) := by
  simp only [State.key, lowNibble_toNat]

/-! ### The statements -/

/-- Settles O24: the target is the zero-extended address (`addr12_toNat`), and a jump writes the pc alone. -/
theorem jumpSetsPc : Obligations.JumpSetsPc :=
  fun nnn s => ⟨s.jump (addr12 nnn), rfl, addr12_toNat nnn, s.jump_frame _⟩

/-- Settles O25: the 16-bit sum wraps at 65536, and the register added is the one `State.jumpReg_eq` names. -/
theorem jumpOffsetAddsRegister : Obligations.JumpOffsetAddsRegister := by
  intro nnn s
  refine ⟨_, rfl, ?_, s.jump_frame _⟩
  rw [State.jump_pc, BitVec.toNat_add, addr12_toNat, BitVec.toNat_setWidth_of_le (by decide), State.jumpReg_eq]

/-- Settles O29: each skip tests equality of two bytes, or its negation, and two bytes are equal exactly when their values are. -/
theorem registerSkips : Obligations.RegisterSkips :=
  fun _ _ _ _ =>
    ⟨exec_skips_when rfl (beq_iff_toNat_eq _ _), exec_skips_unless rfl (bne_iff_toNat_ne _ _),
      exec_skips_when rfl (beq_iff_toNat_eq _ _), exec_skips_unless rfl (bne_iff_toNat_ne _ _)⟩

/-- Settles O30: both skips test the key `State.key_lowNibble` names, the second one negated. -/
theorem keySkips : Obligations.KeySkips := by
  intro x s
  rw [← s.key_lowNibble (s.getV x)]
  exact ⟨exec_skips_when rfl Iff.rfl, exec_skips_unless rfl (by simp)⟩

end Sys2Proof.Machine
end

section
/-! Proofs for 42_alu.md, R162 to R165 and R172: the copy, the three bitwise operations and the load of an immediate. Each is one
register write, so all five share its effect and its frame. -/

namespace Sys2Proof.Machine

/-- A register write changes no part of the state but the general registers (R20). -/
theorem State.setV_frame (s : State) (x : Reg) (b : Byte) : SameExcept [.v] s (s.setV x b) := by
  intro p hp
  cases p with
  | v => exact absurd (List.mem_singleton.mpr rfl) hp
  | stack | wait => exact ⟨rfl, rfl⟩
  | halt => exact ⟨rfl, rfl, rfl⟩
  | mem => exact fun _ => rfl
  | _ => rfl

/-- A register write changes no register but its own, so no flag in `v[15]` unless `x = 15` (R20). -/
theorem State.setV_regs (s : State) (x : Reg) (b : Byte) : RegsExcept [x] s (s.setV x b) := by
  intro r hr
  rw [State.getV_setV, if_neg (List.ne_of_not_mem_cons hr)]

/-- An instruction whose whole effect is to write `b` to register `x` completes, leaves `b` there, and changes nothing else. -/
theorem exec_writes_register {i : Instr} {s : State} {x : Reg} {b : Byte} (he : exec i s = .next (s.setV x b)) :
    ∃ t, exec i s = .next t ∧ t.getV x = b ∧ RegsExcept [x] s t ∧ SameExcept [.v] s t :=
  ⟨_, he, by rw [State.getV_setV, if_pos rfl], s.setV_regs x b, s.setV_frame x b⟩

/-- Settles O31: `LDI` writes its immediate to one register (`exec_writes_register`). -/
theorem loadImmediate : Obligations.LoadImmediate :=
  fun _ _ _ => exec_writes_register rfl

/-- Settles O33: each of the four writes its result to one register and no flag (`exec_writes_register`). -/
theorem copyAndBitwise : Obligations.CopyAndBitwise :=
  fun _ _ _ =>
    ⟨exec_writes_register rfl, exec_writes_register rfl, exec_writes_register rfl, exec_writes_register rfl⟩

end Sys2Proof.Machine
end

section
/-! Proofs for 43_memory_index.md, R190 and R197: the immediate load of `I`, and the three digits `BCD` stores. -/

namespace Sys2Proof.Machine

/-- An update of `I` changes no other part of the state (R25). -/
theorem State.withIdx_frame (s : State) (a : Word) : SameExcept [.idx] s { s with idx := a } := by
  intro p hp
  cases p with
  | idx => exact absurd (List.mem_singleton.mpr rfl) hp
  | stack | wait => exact ⟨rfl, rfl⟩
  | halt => exact ⟨rfl, rfl, rfl⟩
  | mem => exact fun _ => rfl
  | _ => rfl

/-- The byte at offset `z` of a run of at most 65536 byte writes is the `z`th byte stored, also where the address wraps (R62,
R65). -/
theorem State.readByte_storeBytes_offset (s : State) (a : Word) {bs : List Byte} (hl : bs.length ≤ 65536) {z : Nat}
    (hz : z < bs.length) : (s.storeBytes a bs).readByte (a + BitVec.ofNat 16 z) = bs[z] := by
  have hoff : (a + BitVec.ofNat 16 z - a).toNat = z := by
    rw [BitVec.add_comm, BitVec.add_sub_cancel, BitVec.toNat_ofNat, Nat.mod_eq_of_lt (by omega)]
  rw [State.readByte_storeBytes _ _ _ hl, dif_pos (by rwa [hoff])]
  simp only [hoff]

@[simp] theorem bcdDigits_length (b : Byte) : (bcdDigits b).length = 3 := rfl

/-- Each decimal digit of a byte fits a byte, so none is cut off (R197). -/
theorem bcdDigits_toNat (b : Byte) :
    (bcdDigits b)[0].toNat = b.toNat / 100 ∧ (bcdDigits b)[1].toNat = b.toNat / 10 % 10 ∧
      (bcdDigits b)[2].toNat = b.toNat % 10 := by
  have hb := b.isLt
  exact ⟨Nat.mod_eq_of_lt (by omega), Nat.mod_eq_of_lt (by omega), Nat.mod_eq_of_lt (by omega)⟩

/-- Settles O38: `IDX` writes `I` alone (`State.withIdx_frame`), with the zero-extended address (`addr12_toNat`). -/
theorem indexImmediate : Obligations.IndexImmediate :=
  fun nnn s => ⟨{ s with idx := addr12 nnn }, rfl, addr12_toNat nnn, s.withIdx_frame _⟩

/-- Settles O42: the byte at each offset is the digit stored there (`State.readByte_storeBytes_offset`), its value is the decimal
digit (`bcdDigits_toNat`), and the store's own frame is the instruction's. -/
theorem bcdWritesDigits : Obligations.BcdWritesDigits := by
  intro x s
  have hlength : (bcdDigits (s.getV x)).length ≤ 65536 := by simp
  have hdigit (z : Nat) (hz : z < 3) :
      ((s.storeBytes s.idx (bcdDigits (s.getV x))).readByte (s.idx + BitVec.ofNat 16 z)).toNat =
        (bcdDigits (s.getV x))[z].toNat :=
    congrArg _ (s.readByte_storeBytes_offset s.idx hlength hz)
  have hfirst := hdigit 0 (by decide)
  rw [BitVec.add_zero] at hfirst
  obtain ⟨hundreds, tens, units⟩ := bcdDigits_toNat (s.getV x)
  obtain ⟨hparts, hbytes⟩ := s.storeBytes_frame s.idx _ hlength
  exact ⟨_, rfl, hfirst.trans hundreds, (hdigit 1 (by decide)).trans tens, (hdigit 2 (by decide)).trans units, hbytes, hparts⟩

end Sys2Proof.Machine
end

section
/-! Proofs for 44_display.md, R220 to R227: the clear, the two mode switches and the four scrolls. Each replaces the display, a mode
switch the mode too, so all seven share one frame. -/

namespace Sys2Proof.Machine

/-! ### The frame of a screen update -/

/-- An update of the display and the mode changes no other part of the state. -/
theorem State.withScreen_frame (s : State) (d : Display) (m : Bool) :
    SameExcept [.disp, .hires] s { s with disp := d, hires := m } := by
  intro p hp
  cases p with
  | disp | hires => simp at hp
  | stack | wait => exact ⟨rfl, rfl⟩
  | halt => exact ⟨rfl, rfl, rfl⟩
  | mem => exact fun _ => rfl
  | _ => rfl

/-- An update of the display alone is a screen update that writes the mode back, so the mode is in its frame. -/
theorem State.withDisp_frame (s : State) (d : Display) : SameExcept [.disp] s { s with disp := d } := by
  intro p hp
  by_cases hmode : p = .hires
  · subst hmode; rfl
  · exact s.withScreen_frame d s.hires p (by simpa [hmode] using hp)

/-! ### Clearing and the mode -/

/-- An instruction that clears the display and sets the mode to `m` leaves every cell clear, the mode at `m`, and the rest of the
state alone (R226, R227). -/
theorem exec_clears_to_mode {i : Instr} {s : State} {m : Bool} (he : exec i s = .next { s.clearAll with hires := m }) :
    ∃ t, exec i s = .next t ∧ (∀ c r, t.disp.cell c r = Cell.clear) ∧ t.hires = m ∧ SameExcept [.disp, .hires] s t :=
  ⟨_, he, Display.cell_blank, rfl, s.withScreen_frame _ m⟩

/-- Settles O50: all three leave the blank display, whose every cell is clear (`Display.cell_blank`); `CLS` writes the display alone,
and the other two differ in the mode they set (`exec_clears_to_mode`). -/
theorem clearAndModeSwitch : Obligations.ClearAndModeSwitch :=
  fun s => ⟨⟨_, rfl, Display.cell_blank, s.withDisp_frame _⟩, exec_clears_to_mode rfl, exec_clears_to_mode rfl⟩

/-! ### Scrolling -/

/-- The bit moved from a source cell that exists only under a condition: 0 where the condition fails (R221). Every scroll's source
has this form. -/
theorem Display.movedBit_ite (d : Display) (k : PlaneId) (p : Prop) [Decidable p] (c r : Nat) :
    d.movedBit k (if p then some (c, r) else none) = if p then (d.cell c r).bit k else false :=
  apply_ite (d.movedBit k) p _ _

/-- An instruction whose whole effect is a scroll completes, and its display is the scrolled one, with the bits its source gives
(R221). -/
theorem exec_scrolls {i : Instr} {s : State} {src : ScrollSource} {moved : PlaneId → Nat → Nat → Bool}
    (he : exec i s = .next (s.scroll src)) (hmoved : ∀ k c r, s.disp.movedBit k (src c r) = moved k c r) :
    ∃ t, exec i s = .next t ∧ ScrolledTo s t moved := by
  refine ⟨_, he, fun k c r hc hr => ?_, s.cell_scroll_inactive src, s.withDisp_frame _⟩
  rw [s.bit_scroll_active src k c r hc hr, hmoved]

/-- Settles O52: the four instructions scroll from four sources (`exec_scrolls`), each a cell at a fixed distance, present while
it lies in the active area (`Display.movedBit_ite`). -/
theorem scrollsShiftSelectedPlanes : Obligations.ScrollsShiftSelectedPlanes :=
  fun _ s =>
    ⟨exec_scrolls rfl fun k _ _ => s.disp.movedBit_ite k _ _ _, exec_scrolls rfl fun k _ _ => s.disp.movedBit_ite k _ _ _,
      exec_scrolls rfl fun k _ _ => s.disp.movedBit_ite k _ _ _, exec_scrolls rfl fun k _ _ => s.disp.movedBit_ite k _ _ _⟩

end Sys2Proof.Machine
end

section
/-! Proofs for 45_timers_keys.md, R251 to R254: the timer accesses, and the wait that `WAITK` enters and a key-down ends. The updates
of the timers, the keys and the wait share one frame; each instruction and event narrows it to what it writes. -/

namespace Sys2Proof.Machine

/-! ### The frame of a device update -/

/-- A frame narrows to the parts that really changed: each part given up needs to be unchanged. -/
theorem SameExcept.narrow {ps qs : List Part} {s t : State} (h : SameExcept ps s t)
    (hkept : ∀ p ∈ ps, p ∉ qs → Unchanged s t p) : SameExcept qs s t := by
  intro p hq
  by_cases hp : p ∈ ps
  · exact hkept p hp hq
  · exact h p hp

/-- An update of the registers, the keys, the wait and the timers changes no other part of the state. -/
theorem State.withDevices_frame (s : State) (v : Vector Byte 16) (ks : Vector Bool 16) (w : Bool) (r : Reg) (d t : Byte) :
    SameExcept [.v, .keys, .wait, .dt, .st] s
      { s with v := v, keys := ks, waiting := w, waitReg := r, dt := d, st := t } := by
  intro p hp
  cases p with
  | v | keys | wait | dt | st => simp at hp
  | stack => exact ⟨rfl, rfl⟩
  | halt => exact ⟨rfl, rfl, rfl⟩
  | mem => exact fun _ => rfl
  | _ => rfl

theorem State.withDt_frame (s : State) (d : Byte) : SameExcept [.dt] s { s with dt := d } :=
  (s.withDevices_frame s.v s.keys s.waiting s.waitReg d s.st).narrow (by simp [Unchanged])

theorem State.withSt_frame (s : State) (t : Byte) : SameExcept [.st] s { s with st := t } :=
  (s.withDevices_frame s.v s.keys s.waiting s.waitReg s.dt t).narrow (by simp [Unchanged])

theorem State.withWait_frame (s : State) (w : Bool) (r : Reg) :
    SameExcept [.wait] s { s with waiting := w, waitReg := r } :=
  (s.withDevices_frame s.v s.keys w r s.dt s.st).narrow (by simp [Unchanged])

theorem State.setKey_frame (s : State) (k : BitVec 4) (b : Bool) : SameExcept [.keys] s (s.setKey k b) :=
  (s.withDevices_frame s.v (s.setKey k b).keys s.waiting s.waitReg s.dt s.st).narrow (by simp [Unchanged])

/-! ### The timers -/

/-- Settles O55: `GDT` is one register write (`exec_writes_register`), and `SDT` and `SST` each write their timer alone. -/
theorem timerAccess : Obligations.TimerAccess :=
  fun x s =>
    ⟨exec_writes_register rfl, ⟨{ s with dt := s.getV x }, rfl, rfl, s.withDt_frame _⟩,
      ⟨{ s with st := s.getV x }, rfl, rfl, s.withSt_frame _⟩⟩

/-! ### The wait -/

theorem State.stalled_of_waiting {s : State} (hw : s.waiting = true) : s.stalled = true := by
  simp [State.stalled, hw]

/-- A stalled core's step changes nothing (R126). -/
theorem step_of_stalled {s : State} (h : s.stalled = true) : step s = .next s := if_pos h

/-- The timers do not run during a wait (R253, R270). -/
theorem State.tick_of_waiting {s : State} (hw : s.waiting = true) : s.tick = s := if_pos hw

/-- A key-down during a wait presses its key, writes its code to the target register and ends the wait (R253, R272). -/
theorem State.keyDown_of_waiting {s : State} (hw : s.waiting = true) (k : BitVec 4) :
    s.keyDown k = { (s.setKey k true).setV s.waitReg (k.zeroExtend 8) with waiting := false } := if_pos hw

/-- The key-down that ends a wait leaves its code in the target register (R253). -/
theorem State.getV_waitReg_keyDown {s : State} (hw : s.waiting = true) (k : BitVec 4) :
    (s.keyDown k).getV s.waitReg = k.zeroExtend 8 := by
  rw [State.keyDown_of_waiting hw]
  exact (State.getV_setV _ _ _ _).trans (if_pos rfl)

/-- The key-down that ends a wait changes no register but the target (R253). -/
theorem State.keyDown_regs_of_waiting {s : State} (hw : s.waiting = true) (k : BitVec 4) :
    RegsExcept [s.waitReg] s (s.keyDown k) := by
  rw [State.keyDown_of_waiting hw]
  exact (s.setKey k true).setV_regs s.waitReg _

/-- The key-down that ends a wait changes the registers, the keys and the wait, so neither the pc nor a timer (R253). -/
theorem State.keyDown_frame_of_waiting {s : State} (hw : s.waiting = true) (k : BitVec 4) :
    SameExcept [.v, .keys, .wait] s (s.keyDown k) := by
  rw [State.keyDown_of_waiting hw]
  exact (s.withDevices_frame _ _ false s.waitReg s.dt s.st).narrow (by simp [Unchanged])

/-- Settles O56: `WAITK` writes the wait alone; while waiting the core is stalled, so a step does nothing, nor does a tick; a key-up
writes only the keys; and a key-down delivers its 4-bit code, which fits the register, and ends the wait. -/
theorem waitKeySuspends : Obligations.WaitKeySuspends := by
  refine ⟨fun x s => ⟨{ s with waiting := true, waitReg := x }, rfl, rfl, rfl, s.withWait_frame true x⟩, fun s k hw => ?_⟩
  have hstep : step s = .next s := step_of_stalled (State.stalled_of_waiting hw)
  have htick : deliver .tick s = .next s := congrArg _ (State.tick_of_waiting hw)
  have hends : (s.keyDown k).waiting = false := by rw [State.keyDown_of_waiting hw]
  have hcode : ((s.keyDown k).getV s.waitReg).toNat = k.toNat := by
    rw [State.getV_waitReg_keyDown hw]
    exact BitVec.toNat_setWidth_of_le (by decide)
  exact ⟨hstep, htick, ⟨_, rfl, s.setKey_frame k false⟩,
    ⟨_, rfl, hends, hcode, State.keyDown_regs_of_waiting hw k, State.keyDown_frame_of_waiting hw k⟩⟩

end Sys2Proof.Machine
end

section
/-! Proofs for 30_encoding.md, R90 to R101, and 40_fetch_dispatch.md, R121, R122 and R127. The table decoder is characterised once: it
answers `i` exactly when `i` is a row's reading of the word and the row's fixed bits are in it (`decodeOp_eq_some_iff`). The round
trips, the document's dispatch and the list of unknown words follow from that. -/

namespace Sys2Proof

/-! ### Operands and the fields they are read from -/

/-- The number that a field holds in the words `op` and `next` (R91, R99). -/
def Field.read (op next : Word) : Field → Nat
  | .x => (fieldX op).toNat
  | .y => (fieldY op).toNat
  | .n => (fieldN op).toNat
  | .nn => (fieldNN op).toNat
  | .nnn => (fieldNNN op).toNat
  | .nnnn => next.toNat

/-- The bits of the instruction word that a field occupies: none for the operand word of the long form (R91, R99). -/
def Field.mask : Field → Word
  | .nnnn => 0
  | f => (BitVec.allOnes f.width).setWidth 16 <<< f.lo

/-- The bits of the instruction word that an instruction's operands occupy. -/
def Instr.fieldMask (i : Instr) : Word := i.operands.foldl (fun m o => m ||| o.field.mask) 0

/-- The rows read from two words are the instructions whose every operand is what its field holds. -/
theorem mem_candidates_iff (i : Instr) (op next : Word) :
    i ∈ candidates op next ↔ ∀ o ∈ i.operands, o.value = o.field.read op next := by
  cases i <;>
    simp [candidates, candidatesLow, candidatesMid, candidatesHigh, Instr.operands, Field.read, BitVec.toNat_inj]

theorem Opcode.claims_iff (o : Opcode) (op : Word) : o.claims op = true ↔ op &&& o.mask = o.value := beq_iff_eq

/-- Reading a field of a word and putting it back in place keeps just the field's bits. -/
theorem extract_in_place (op : Word) (lo len : Nat) :
    BitVec.ofNat 16 (op.extractLsb' lo len).toNat <<< lo = op &&& ((BitVec.allOnes len).setWidth 16 <<< lo) := by
  ext i hi
  rw [BitVec.ofNat_toNat]
  by_cases hlo : i < lo
  · simp [hlo]
  · have hbit : lo + (i - lo) = i := by omega
    simp [hlo, hbit, Bool.and_comm, BitVec.getLsbD_eq_getElem hi]

theorem Operand.inWord_read (f : Field) (op next : Word) :
    (Operand.mk f (f.read op next)).inWord = op &&& f.mask := by
  cases f with
  | nnnn => exact BitVec.and_zero.symm
  | _ => exact extract_in_place op _ _

/-- Operands read from a word, put back in place one after another, add their fields' bits of the word. -/
theorem foldl_inWord_read (op next : Word) (os : List Operand) (h : ∀ o ∈ os, o.value = o.field.read op next) (w m : Word) :
    os.foldl (fun w o => w ||| o.inWord) (w ||| (op &&& m)) =
      w ||| (op &&& os.foldl (fun m o => m ||| o.field.mask) m) := by
  induction os generalizing m with
  | nil => rfl
  | cons o os ih =>
    obtain ⟨ho, hos⟩ := List.forall_mem_cons.mp h
    obtain ⟨f, v⟩ := o
    dsimp only at ho
    subst ho
    rw [List.foldl_cons, Operand.inWord_read, BitVec.or_assoc, ← BitVec.and_or_distrib_left, ih hos]
    rfl

/-- The fixed bits of a row and the fields of its operands are the whole word (R92). -/
theorem Instr.mask_or_fieldMask (i : Instr) : i.opcode.mask ||| i.fieldMask = BitVec.allOnes 16 := by
  cases i <;>
    simp only [Instr.opcode, Instr.fieldMask, Instr.operands, List.foldl, Field.mask, Field.width, Field.lo] <;> decide

/-- A row that claims a word and is read from it encodes to it (R95, R96). -/
theorem encodeWord_of_claims {op next : Word} {i : Instr} (hi : i ∈ candidates op next) (hc : i.opcode.claims op = true) :
    encodeWord i = op := by
  have hvalue : op &&& i.opcode.mask = i.opcode.value := (Opcode.claims_iff _ _).mp hc
  calc encodeWord i
    _ = i.operands.foldl (fun w o => w ||| o.inWord) (i.opcode.value ||| (op &&& 0)) := by simp [encodeWord]
    _ = i.opcode.value ||| (op &&& i.fieldMask) :=
      foldl_inWord_read op next _ ((mem_candidates_iff i op next).mp hi) _ _
    _ = op &&& (i.opcode.mask ||| i.fieldMask) := by rw [← hvalue, BitVec.and_or_distrib_left]
    _ = op := by rw [i.mask_or_fieldMask, BitVec.and_allOnes]

/-- A value put in place is read back from its own field. -/
theorem extract_placed {len : Nat} (v : BitVec len) (lo : Nat) (h : lo + len ≤ 16) :
    (BitVec.ofNat 16 v.toNat <<< lo).extractLsb' lo len = v := by
  ext i hi
  have hin : lo + i < 16 := by omega
  simp [hin, BitVec.getLsbD_eq_getElem hi]

/-- A value put in place leaves nothing in a field apart from its own. -/
theorem extract_placed_apart {w : Nat} (v : BitVec w) (lo lo' len : Nat) (h : lo + len ≤ lo' ∨ lo' + w ≤ lo) :
    (BitVec.ofNat 16 v.toNat <<< lo').extractLsb' lo len = 0 := by
  ext i hi
  simp only [BitVec.ofNat_toNat, BitVec.getElem_extractLsb', BitVec.getLsbD_shiftLeft, BitVec.getLsbD_setWidth,
    BitVec.ofNat_eq_ofNat, BitVec.getElem_zero, Bool.and_eq_false_imp, Bool.and_eq_true, decide_eq_true_eq,
    Bool.not_eq_eq_eq_not, Bool.not_true, decide_eq_false_iff_not, not_lt, and_imp]
  intro _ _ _
  exact BitVec.getLsbD_of_ge _ _ (by omega)

/-- Every instruction is read back from its own encoding, the long form with its operand in the next word (R92, R99). -/
theorem mem_candidates_encodeWord (i : Instr) (next : Word) (h : ∀ nnnn, i = .idxl nnnn → nnnn = next) :
    i ∈ candidates (encodeWord i) next := by
  rw [mem_candidates_iff]
  cases i
  case idxl nnnn => simp [Instr.operands, Field.read, h nnnn rfl]
  all_goals
    simp (disch := decide) only [Instr.operands, List.forall_mem_cons, List.not_mem_nil, Field.read, BitVec.toNat_inj,
      fieldX, fieldY, fieldN, fieldNN, fieldNNN, encodeWord, Instr.opcode, Operand.inWord, Field.lo, List.foldl,
      BitVec.extractLsb'_or, extract_placed, extract_placed_apart]
    simp

/-! ### The rows of the table -/

/-- The fixed bits of the 50 rows, in the order of the table (R96). -/
def opcodeRows : List Opcode := (candidates 0 0).map Instr.opcode

theorem candidates_map_opcode (op next : Word) : (candidates op next).map Instr.opcode = opcodeRows := rfl

/-- Two rows that claim one word agree where both have fixed bits. -/
theorem Opcode.agree_of_claims {o p : Opcode} {op : Word} (ho : o.claims op = true) (hp : p.claims op = true) :
    o.value &&& p.mask = p.value &&& o.mask := by
  rw [Opcode.claims_iff] at ho hp
  rw [← ho, ← hp, BitVec.and_assoc, BitVec.and_assoc, BitVec.and_comm o.mask]

/-- Any two rows differ in a bit that is fixed in both. -/
theorem opcodeRows_differ : opcodeRows.Pairwise fun o p => o.value &&& p.mask ≠ p.value &&& o.mask := by
  decide

/-- At most one row claims a word (R95). -/
theorem eq_of_claims {op next : Word} {i j : Instr} (hi : i ∈ candidates op next) (hj : j ∈ candidates op next)
    (hci : i.opcode.claims op = true) (hcj : j.opcode.claims op = true) : i = j := by
  have hrows : (candidates op next).Pairwise fun i j =>
      i.opcode.value &&& j.opcode.mask ≠ j.opcode.value &&& i.opcode.mask :=
    List.pairwise_map.mp (candidates_map_opcode op next ▸ opcodeRows_differ)
  have hsymm : Std.Symm fun i j : Instr => i.opcode.value &&& j.opcode.mask ≠ j.opcode.value &&& i.opcode.mask :=
    ⟨fun _ _ h => h.symm⟩
  by_contra hij
  exact hrows.forall hi hj hij (Opcode.agree_of_claims hci hcj)

/-- What the decoder answers: the row that claims the word, read from it (R95, R127). -/
theorem decodeOp_eq_some_iff {op next : Word} {i : Instr} :
    decodeOp op next = some i ↔ i ∈ candidates op next ∧ i.opcode.claims op = true := by
  unfold decodeOp
  constructor
  · exact fun h => ⟨List.mem_of_find?_eq_some h, by simpa using List.find?_some h⟩
  · rintro ⟨hi, hc⟩
    obtain ⟨j, hj⟩ := Option.isSome_iff_exists.mp
      ((List.find?_isSome (p := fun i : Instr => i.opcode.claims op)).mpr ⟨i, hi, hc⟩)
    have hcj : j.opcode.claims op = true := by simpa using List.find?_some hj
    rw [hj, eq_of_claims (List.mem_of_find?_eq_some hj) hi hcj hc]

/-- A word that decodes is the encoding of its instruction (R96). -/
theorem encodeWord_of_decodeOp {op next : Word} {i : Instr} (h : decodeOp op next = some i) : encodeWord i = op := by
  obtain ⟨hi, hc⟩ := decodeOp_eq_some_iff.mp h
  exact encodeWord_of_claims hi hc

theorem decodeOp_encodeWord {i : Instr} {next : Word} (h : ∀ nnnn, i = .idxl nnnn → nnnn = next) :
    decodeOp (encodeWord i) next = some i :=
  decodeOp_eq_some_iff.mpr ⟨mem_candidates_encodeWord i next h, Laws.Encoding.claims_encodeWord i⟩

/-! ### The decoder on bytes -/

/-- The two bytes of a word, high byte first, join to it (R90). -/
theorem bytes_join (w : Word) : w.extractLsb' 8 8 ++ w.extractLsb' 0 8 = w := by
  rw [BitVec.extractLsb'_append_extractLsb'_eq_extractLsb' (by decide)]
  exact BitVec.extractLsb'_eq_self

theorem decode_wordBytes {w : Word} {rest : List Byte} {i : Instr} (h : decodeOp w (wordOf rest) = some i)
    (hl : i.length ≤ rest.length + 2) : decode (wordBytes w ++ rest) = .ok (i, rest.drop (i.length - 2)) := by
  simp only [wordBytes, List.cons_append, List.nil_append, decode, bytes_join, h, if_neg (Nat.not_lt.mpr hl)]

theorem decode_encode (i : Instr) (rest : List Byte) : decode (encode i ++ rest) = .ok (i, rest) := by
  cases i with
  | idxl nnnn =>
    have hnext : wordOf (wordBytes nnnn ++ rest) = nnnn := bytes_join nnnn
    exact decode_wordBytes (decodeOp_encodeWord (by rintro _ ⟨⟩; exact hnext.symm)) (by simp [Instr.length])
  | _ => exact decode_wordBytes (decodeOp_encodeWord nofun) (Nat.le_add_left _ _)

/-- Settles O1: the encoded word is claimed by its own row alone and read back field by field (`decodeOp_encodeWord`). The operand
types already bound every field, so well-formedness is not used. -/
theorem decodeEncodeRoundTrip : Obligations.DecodeEncodeRoundTrip :=
  fun i rest _ => decode_encode i rest

/-- Settles O2: fixed bits and fields together are the whole word (`encodeWord_of_decodeOp`), and the long form's operand is read from
the next word (`mem_candidates_iff`). -/
theorem encodeDecodeRoundTrip : Obligations.EncodeDecodeRoundTrip := by
  intro op next i h
  refine ⟨encodeWord_of_decodeOp h, ?_⟩
  rintro nnnn rfl
  have hread := (mem_candidates_iff _ op next).mp (decodeOp_eq_some_iff.mp h).1
  exact BitVec.eq_of_toNat_eq (hread ⟨.nnnn, nnnn.toNat⟩ (List.mem_singleton.mpr rfl))

/-- Settles O3: any two rows differ in a bit fixed in both (`eq_of_claims`). -/
theorem opcodeRowsDisjoint : Obligations.OpcodeRowsDisjoint :=
  fun _ _ _ _ hi hj hci hcj => eq_of_claims hi hj hci hcj

/-! ### Words by their nibbles -/

theorem fields_join (op : Word) : fieldFam op ++ (fieldX op ++ (fieldY op ++ fieldN op)) = op := by
  unfold fieldFam fieldX fieldY fieldN
  rw [BitVec.extractLsb'_append_extractLsb'_eq_extractLsb' (by decide),
    BitVec.extractLsb'_append_extractLsb'_eq_extractLsb' (by decide),
    BitVec.extractLsb'_append_extractLsb'_eq_extractLsb' (by decide)]
  exact BitVec.extractLsb'_eq_self

/-- Two words are equal exactly when their four nibbles are. The second word's are written as extractions, which evaluate when it is
a literal. -/
theorem word_eq_iff (op v : Word) : op = v ↔ fieldFam op = v.extractLsb' 12 4 ∧ fieldX op = v.extractLsb' 8 4 ∧
    fieldY op = v.extractLsb' 4 4 ∧ fieldN op = v.extractLsb' 0 4 := by
  refine ⟨by rintro rfl; exact ⟨rfl, rfl, rfl, rfl⟩, fun ⟨hf, hx, hy, hn⟩ => ?_⟩
  rw [← fields_join op, hf, hx, hy, hn]
  exact fields_join v

theorem fieldNN_eq_iff (op : Word) (b : Byte) :
    fieldNN op = b ↔ fieldY op = b.extractLsb' 4 4 ∧ fieldN op = b.extractLsb' 0 4 := by
  have hjoin : ∀ c : Byte, c.extractLsb' 4 4 ++ c.extractLsb' 0 4 = c := by decide
  have hnn : fieldNN op = fieldY op ++ fieldN op := by
    unfold fieldNN fieldY fieldN
    rw [BitVec.extractLsb'_append_extractLsb'_eq_extractLsb' (by decide)]
  constructor
  · rintro rfl; simp [fieldNN, fieldY, fieldN]
  · rintro ⟨hy, hn⟩
    rw [hnn, hy, hn, hjoin]

theorem fieldFam_and (a m : Word) : fieldFam (a &&& m) = fieldFam a &&& m.extractLsb' 12 4 := BitVec.extractLsb'_and
theorem fieldX_and (a m : Word) : fieldX (a &&& m) = fieldX a &&& m.extractLsb' 8 4 := BitVec.extractLsb'_and
theorem fieldY_and (a m : Word) : fieldY (a &&& m) = fieldY a &&& m.extractLsb' 4 4 := BitVec.extractLsb'_and
theorem fieldN_and (a m : Word) : fieldN (a &&& m) = fieldN a &&& m.extractLsb' 0 4 := BitVec.extractLsb'_and
theorem fieldNN_and (a m : Word) : fieldNN (a &&& m) = fieldNN a &&& m.extractLsb' 0 8 := BitVec.extractLsb'_and

theorem masked_eq_iff (op m v : Word) : op &&& m = v ↔
    fieldFam op &&& m.extractLsb' 12 4 = v.extractLsb' 12 4 ∧ fieldX op &&& m.extractLsb' 8 4 = v.extractLsb' 8 4 ∧
    fieldY op &&& m.extractLsb' 4 4 = v.extractLsb' 4 4 ∧ fieldN op &&& m.extractLsb' 0 4 = v.extractLsb' 0 4 := by
  rw [word_eq_iff, fieldFam_and, fieldX_and, fieldY_and, fieldN_and]

/-- The same with the low byte as one field, as the misc dispatch tests it. -/
theorem masked_eq_iff_byte (op m v : Word) : op &&& m = v ↔
    fieldFam op &&& m.extractLsb' 12 4 = v.extractLsb' 12 4 ∧ fieldX op &&& m.extractLsb' 8 4 = v.extractLsb' 8 4 ∧
    fieldNN op &&& m.extractLsb' 0 8 = v.extractLsb' 0 8 := by
  have hy : (v.extractLsb' 0 8).extractLsb' 4 4 = v.extractLsb' 4 4 := by simp
  have hn : (v.extractLsb' 0 8).extractLsb' 0 4 = v.extractLsb' 0 4 := by simp
  rw [← fieldNN_and, fieldNN_eq_iff, hy, hn, word_eq_iff, fieldFam_and, fieldX_and]

theorem nibble_and_ones : ∀ f : BitVec 4, f &&& 15#4 = f := by decide
theorem byte_and_ones : ∀ b : Byte, b &&& 255#8 = b := by decide
theorem word_and_ones (op : Word) : op &&& 65535#16 = op := BitVec.and_allOnes

/-- A range of sixteen words with one high part is a masked test (R97's ranges of scroll words). -/
theorem range_iff_masked (op v : Word) (hv : fieldN v = 0) : v ≤ op ∧ op ≤ v + 15 ↔ op &&& 0xFFF0 = v := by
  have hop := op.isLt
  have hlt := v.isLt
  have hlow : v.toNat % 16 = 0 := by simpa [fieldN] using congrArg BitVec.toNat hv
  rw [masked_eq_iff]
  simp only [BitVec.le_def, BitVec.ofNat_eq_ofNat, BitVec.toNat_add, BitVec.toNat_ofNat, Nat.reducePow, Nat.reduceMod,
    fieldFam, BitVec.reduceExtractLsb', nibble_and_ones, ← BitVec.toNat_inj, BitVec.extractLsb'_toNat,
    Nat.shiftRight_eq_div_pow, fieldX, fieldY, BitVec.and_zero, Nat.zero_mod, pow_zero, Nat.div_one]
  omega

theorem scd_range_iff (op : Word) : 0x00C0 ≤ op ∧ op ≤ 0x00CF ↔ op &&& 0xFFF0 = 0x00C0 :=
  range_iff_masked op 0x00C0 (by decide)

theorem scu_range_iff (op : Word) : 0x00D0 ≤ op ∧ op ≤ 0x00DF ↔ op &&& 0xFFF0 = 0x00D0 :=
  range_iff_masked op 0x00D0 (by decide)

theorem nibble_cases : ∀ f : BitVec 4, f = 0 ∨ f = 1 ∨ f = 2 ∨ f = 3 ∨ f = 4 ∨ f = 5 ∨ f = 6 ∨ f = 7 ∨ f = 8 ∨ f = 9 ∨
    f = 10 ∨ f = 11 ∨ f = 12 ∨ f = 13 ∨ f = 14 ∨ f = 15 := by
  decide

/-! ### What the dispatch selects, the table decodes -/

/-- A dispatch's answer, when it is an instruction, is the table's (R127). -/
def Selects (op next : Word) (d : Option Instr) : Prop := ∀ i, d = some i → decodeOp op next = some i

theorem Selects.none {op next : Word} : Selects op next none := nofun

theorem Selects.ite {op next : Word} {d e : Option Instr} {c : Prop} [Decidable c] (hd : c → Selects op next d)
    (he : ¬ c → Selects op next e) : Selects op next (if c then d else e) := by
  split_ifs with hc
  · exact hd hc
  · exact he hc

theorem Selects.row {op next : Word} {i : Instr} (hread : ∀ o ∈ i.operands, o.value = o.field.read op next)
    (hc : op &&& i.opcode.mask = i.opcode.value) : Selects op next (some i) := by
  rintro _ ⟨⟩
  exact decodeOp_eq_some_iff.mpr ⟨(mem_candidates_iff ..).mpr hread, (Opcode.claims_iff ..).mpr hc⟩

theorem dispatchAlu_selects {op : Word} (next : Word) (hf : fieldFam op = 8) : Selects op next (dispatchAlu op) := by
  unfold dispatchAlu
  repeat
    refine .ite (fun hn => .row (by simp [Instr.operands, Field.read]) ?_) fun _ => ?_
    · simp [Instr.opcode, masked_eq_iff, nibble_and_ones, hf, hn]
  exact .none

theorem dispatchMisc_selects {op : Word} (next : Word) (hf : fieldFam op = 0xF) : Selects op next (dispatchMisc op) := by
  unfold dispatchMisc
  repeat
    refine .ite (fun hnn => .row (by simp [Instr.operands, Field.read]) ?_) fun _ => ?_
    · simp [Instr.opcode, masked_eq_iff_byte, byte_and_ones, hf, hnn]
  exact .none

theorem dispatchCanonical_selects {op : Word} (next : Word) (h5 : fieldFam op = 5 → fieldN op = 0)
    (h9 : fieldFam op = 9 → fieldN op = 0) : Selects op next (dispatchCanonical op) := by
  unfold dispatchCanonical
  iterate 7
    refine .ite (fun hf => .row (by simp [Instr.operands, Field.read]) ?_) fun _ => ?_
    · simp [Instr.opcode, masked_eq_iff, nibble_and_ones, hf, h5]
  refine .ite (dispatchAlu_selects next) fun _ => ?_
  iterate 5
    refine .ite (fun hf => .row (by simp [Instr.operands, Field.read]) ?_) fun _ => ?_
    · simp [Instr.opcode, masked_eq_iff, nibble_and_ones, hf, h9]
  exact .ite (dispatchMisc_selects next) fun _ => .none

/-- The whole dispatch: the exact words and masks first, each of which is its row's own test; then the families (R121). -/
theorem dispatchWord_selects (op next : Word) : Selects op next (dispatchWord op next) := by
  unfold dispatchWord
  iterate 13
    refine .ite (fun hop => .row (by simp [Instr.operands, Field.read]) ?_) fun _ => ?_
    · simpa [Instr.opcode, word_and_ones] using hop
  refine .ite (fun ⟨hf, _⟩ => ?_) fun h5 => .ite (fun _ => .none) fun h9 =>
    dispatchCanonical_selects next (by simpa using h5) (by simpa using h9)
  iterate 2
    refine .ite (fun hn => .row (by simp [Instr.operands, Field.read]) ?_) fun _ => ?_
    · simp [Instr.opcode, masked_eq_iff, nibble_and_ones, hf, hn]
  exact .none

/-! ### What neither selects is on the list of unknown words -/

theorem ite_some_eq_none_iff {c : Prop} [Decidable c] {i : Instr} {d : Option Instr} :
    (if c then some i else d) = none ↔ ¬ c ∧ d = none := by
  split_ifs with hc <;> simp [hc]

theorem dispatchAlu_eq_none {op : Word} (h : dispatchAlu op = none) : fieldN op ∈ [8, 9, 0xA, 0xB, 0xC, 0xD, 0xF] := by
  rcases nibble_cases (fieldN op) with hn | hn | hn | hn | hn | hn | hn | hn | hn | hn | hn | hn | hn | hn | hn | hn <;>
    simp [dispatchAlu, hn] at h ⊢

theorem dispatchMisc_eq_none {op : Word} (h : dispatchMisc op = none) :
    fieldNN op ∉ [0x01, 0x02, 0x07, 0x0A, 0x15, 0x18, 0x1E, 0x29, 0x30, 0x33, 0x55, 0x65, 0x75, 0x85] := by
  simpa [dispatchMisc, ite_some_eq_none_iff] using h

/-- A word the dispatch leaves is on the list, family by family: only six of the sixteen families leave any (R97). -/
theorem unknownWord_of_dispatchWord_eq_none {op next : Word} (h : dispatchWord op next = none) : unknownWord op = true := by
  unfold unknownWord
  simp only [scd_range_iff, scu_range_iff]
  rcases nibble_cases (fieldFam op) with hf | hf | hf | hf | hf | hf | hf | hf | hf | hf | hf | hf | hf | hf | hf | hf
  all_goals
    simp [dispatchWord, ite_some_eq_none_iff, dispatchCanonical, hf, word_eq_iff, fieldFam_and, fieldX_and, fieldY_and,
      fieldN_and, nibble_and_ones] at h ⊢
  · -- family 0: the words of its rows
    obtain ⟨halt, exit, cls, ret, lores, hires, scd, scu, scr, scl⟩ := h
    simp only [← imp_iff_not_or]
    exact ⟨⟨halt, cls, ret, scr, scl, exit, lores, hires⟩, scd, scu⟩
  · -- family 5: the low nibbles of its rows
    exact h
  · -- family 8: the ALU operations
    simpa using dispatchAlu_eq_none h
  · -- family 9: a low nibble other than 0
    exact h
  · -- family E: the low bytes of the key skips
    simpa [fieldNN_eq_iff] using h
  · -- family F: the long form and the misc operations
    obtain ⟨hidxl, hmisc⟩ := h
    exact ⟨by simpa only [← imp_iff_not_or] using hidxl, by simpa using dispatchMisc_eq_none hmisc⟩

/-- No word on the list is claimed by a row (R97). -/
theorem unknownWord_eq_false_of_claims {op : Word} {i : Instr} (hc : i.opcode.claims op = true) :
    unknownWord op = false := by
  have hnibbles := (Opcode.claims_iff _ _).mp hc
  simp only [unknownWord, scd_range_iff, scu_range_iff]
  cases i
  all_goals
    simp only [masked_eq_iff, Instr.opcode] at hnibbles
    simp [nibble_and_ones] at hnibbles
    simp [hnibbles, fieldNN_eq_iff, word_eq_iff, fieldFam_and, fieldX_and, fieldY_and, fieldN_and, nibble_and_ones]

theorem decodeOp_eq_none_of_unknownWord {op : Word} (next : Word) (h : unknownWord op = true) : decodeOp op next = none := by
  refine Option.eq_none_iff_forall_ne_some.mpr fun i hi => ?_
  obtain ⟨-, hc⟩ := decodeOp_eq_some_iff.mp hi
  simp [unknownWord_eq_false_of_claims hc] at h

theorem dispatchWord_eq_decodeOp (op next : Word) : dispatchWord op next = decodeOp op next := by
  cases hd : dispatchWord op next with
  | some i => exact (dispatchWord_selects op next i hd).symm
  | none => exact (decodeOp_eq_none_of_unknownWord next (unknownWord_of_dispatchWord_eq_none hd)).symm

/-- Settles O4: what the dispatch selects the table decodes (`dispatchWord_selects`), and what it leaves is on the list of unknown
words, none of which the table decodes. -/
theorem dispatchOrderEqualsTable : Obligations.DispatchOrderEqualsTable := dispatchWord_eq_decodeOp

/-- Settles O5: a word the table leaves, the dispatch leaves, so it is on the list; and no word on the list decodes. -/
theorem unknownWordsListed : Obligations.UnknownWordsListed :=
  fun op next => ⟨fun h => unknownWord_of_dispatchWord_eq_none ((dispatchWord_eq_decodeOp op next).trans h),
    decodeOp_eq_none_of_unknownWord next⟩

/-- Settles O6: the table evaluates on each of the eleven words. -/
theorem sampleWordsDecode : Obligations.SampleWordsDecode := by
  unfold Obligations.SampleWordsDecode
  decide

end Sys2Proof
end

section
/-! Proofs for the frames (10_state.md, R20 to R42): what each instruction leaves unchanged, part by part and register by register.
Each shared operation has its frame; an instruction's frame is that of the operations its meaning calls. -/

namespace Sys2Proof.Machine

/-! ### Frames compose -/

theorem Unchanged.trans {s t u : State} {p : Part} (h : Unchanged s t p) (h' : Unchanged t u p) : Unchanged s u p := by
  cases p with
  | stack | wait => exact ⟨h'.1.trans h.1, h'.2.trans h.2⟩
  | halt => exact ⟨h'.1.trans h.1, h'.2.1.trans h.2.1, h'.2.2.trans h.2.2⟩
  | mem => exact fun a => (h' a).trans (h a)
  | _ => exact Eq.trans h' h

theorem SameExcept.refl {ps : List Part} (s : State) : SameExcept ps s s := by
  intro p _
  cases p with
  | stack | wait => exact ⟨rfl, rfl⟩
  | halt => exact ⟨rfl, rfl, rfl⟩
  | mem => exact fun _ => rfl
  | _ => rfl

theorem SameExcept.trans {ps : List Part} {s t u : State} (h : SameExcept ps s t) (h' : SameExcept ps t u) :
    SameExcept ps s u :=
  fun p hp => (h p hp).trans (h' p hp)

theorem SameExcept.mono {ps qs : List Part} {s t : State} (h : SameExcept ps s t) (hsub : ps ⊆ qs) : SameExcept qs s t :=
  fun p hp => h p fun hmem => hp (hsub hmem)

/-! ### Frames of the remaining operations -/

/-- An update of the pc, the call stack and the halt record changes no other part of the state. -/
theorem State.withControl_frame (s : State) (a : Word) (stack : Vector Word 16) (sp : Fin 17) (b : Bool) (c : HaltCause)
    (op : Word) :
    SameExcept [.pc, .stack, .halt] s
      { s with pc := a, stack := stack, sp := sp, halted := b, haltCause := c, haltOp := op } := by
  intro p hp
  cases p with
  | pc | stack | halt => simp at hp
  | wait => exact ⟨rfl, rfl⟩
  | mem => exact fun _ => rfl
  | _ => rfl

/-- An update of the registers, the flag bank, the audio pattern, the plane mask and the count of random values changes no other
part of the state. -/
theorem State.withBanks_frame (s : State) (v : Vector Byte 16) (f : Vector Byte 8) (q : Vector Byte 16) (m : BitVec 2)
    (k : Nat) :
    SameExcept [.v, .flags, .pattern, .plane, .rnd] s
      { s with v := v, flags := f, pattern := q, plane := m, rndIndex := k } := by
  intro p hp
  cases p with
  | v | flags | pattern | plane | rnd => simp at hp
  | stack | wait => exact ⟨rfl, rfl⟩
  | halt => exact ⟨rfl, rfl, rfl⟩
  | mem => exact fun _ => rfl
  | _ => rfl

/-- Entering the halt changes the halt record alone (R267). -/
theorem State.raiseHalt_frame (s : State) (c : HaltCause) (op : Word) : SameExcept [.halt] s (s.raiseHalt c op) :=
  (s.withControl_frame s.pc s.stack s.sp true c op).narrow (by simp [Unchanged])

theorem State.withV_frame (s : State) (v : Vector Byte 16) : SameExcept [.v] s { s with v := v } :=
  (s.withBanks_frame v s.flags s.pattern s.plane s.rndIndex).narrow (by simp [Unchanged])

theorem State.writeFlagged_frame (s : State) (x : Reg) (b : Byte) (c : Bool) : SameExcept [.v] s (s.writeFlagged x b c) := by
  unfold State.writeFlagged
  split
  · exact (s.setV_frame vF _).trans (State.setV_frame _ x b)
  · exact (s.setV_frame x b).trans (State.setV_frame _ vF _)

theorem State.loadRegs_frame (s : State) (a : Word) (rs : List Reg) : SameExcept [.v] s (s.loadRegs a rs) := by
  rw [State.loadRegs_eq]
  exact s.withV_frame _

theorem State.advanceIndex_frame (s : State) (x : Reg) : SameExcept [.idx] s (s.advanceIndex x) := by
  unfold State.advanceIndex
  split
  · exact s.withIdx_frame _
  · exact .refl s

/-! ### `CALL` and `RET`, whose outcome the stack pointer decides -/

theorem exec_call_of_room {s : State} (nnn : BitVec 12) (h : s.sp.val < 16) :
    exec (.call nnn) s = .next { s with
      pc := addr12 nnn, stack := s.stack.set s.sp.val s.pc h, sp := ⟨s.sp.val + 1, Nat.succ_lt_succ h⟩ } := by
  simp only [exec, execCall, State.push_eq_some s h]; rfl

theorem exec_call_of_full {s : State} (nnn : BitVec 12) (h : ¬ s.sp.val < 16) :
    exec (.call nnn) s = .next (s.raiseHalt .stackOverflow (encodeWord (.call nnn))) := by
  simp only [exec, execCall, State.push_eq_none s h]

theorem exec_ret_of_entry {s : State} (h : 0 < s.sp.val) :
    exec .ret s = .next { s with
      pc := s.stack[s.sp.val - 1]'(by have := s.sp.isLt; omega)
      sp := ⟨s.sp.val - 1, by have := s.sp.isLt; omega⟩ } := by
  simp only [exec, execRet, State.pop_eq_some s h]

theorem exec_ret_of_empty {s : State} (h : ¬ 0 < s.sp.val) :
    exec .ret s = .next (s.raiseHalt .stackUnderflow (encodeWord .ret)) := by
  simp only [exec, execRet, State.pop_eq_none s h]

/-- What a completed call has done: pushed and jumped, or halted (R143, R263). -/
theorem exec_call_cases {nnn : BitVec 12} {s t : State} (h : exec (.call nnn) s = .next t) :
    (∃ hroom : s.sp.val < 16, t = { s with
      pc := addr12 nnn, stack := s.stack.set s.sp.val s.pc hroom, sp := ⟨s.sp.val + 1, Nat.succ_lt_succ hroom⟩ }) ∨
    t = s.raiseHalt .stackOverflow (encodeWord (.call nnn)) := by
  by_cases hroom : s.sp.val < 16
  · exact .inl ⟨hroom, Host.Outcome.next.inj (h.symm.trans (exec_call_of_room nnn hroom))⟩
  · exact .inr (Host.Outcome.next.inj (h.symm.trans (exec_call_of_full nnn hroom)))

/-- What a completed return has done: popped, or halted (R141, R264). -/
theorem exec_ret_cases {s t : State} (h : exec .ret s = .next t) :
    (∃ hentry : 0 < s.sp.val, t = { s with
      pc := s.stack[s.sp.val - 1]'(by have := s.sp.isLt; omega)
      sp := ⟨s.sp.val - 1, by have := s.sp.isLt; omega⟩ }) ∨
    t = s.raiseHalt .stackUnderflow (encodeWord .ret) := by
  by_cases hentry : 0 < s.sp.val
  · exact .inl ⟨hentry, Host.Outcome.next.inj (h.symm.trans (exec_ret_of_entry hentry))⟩
  · exact .inr (Host.Outcome.next.inj (h.symm.trans (exec_ret_of_empty hentry)))

/-! ### Every instruction's frame -/

theorem regsUpTo_length_le (x : Reg) : (regsUpTo x).length ≤ 65536 := by
  have := x.isLt
  rw [regsUpTo_length]; omega

theorem spanDist_lt (x y : Reg) : spanDist x y < 16 := by
  have := x.isLt
  have := y.isLt
  unfold spanDist; split <;> omega

theorem regSpan_length_le (x y : Reg) : (regSpan x y).length ≤ 65536 := by
  have := spanDist_lt x y
  rw [regSpan_length]; omega

/-- A store of registers changes no part of the state but memory. -/
theorem State.storeRegs_frame (s : State) (a : Word) {rs : List Reg} (h : rs.length ≤ 65536) :
    SameExcept [.mem] s (s.storeBytes a (rs.map s.getV)) :=
  (s.storeBytes_frame a _ (by simpa using h)).1

theorem exec_frame {i : Instr} {s t : State} (h : exec i s = .next t) : SameExcept (partsWritten i) s t := by
  cases i with
  | ret => obtain ⟨_, rfl⟩ | rfl := exec_ret_cases h <;> exact s.withControl_frame _ _ _ _ _ _
  | call nnn => obtain ⟨_, rfl⟩ | rfl := exec_call_cases h <;> exact s.withControl_frame _ _ _ _ _ _
  | halt | exit => cases h; exact s.raiseHalt_frame _ _
  | jp nnn | jpo nnn => cases h; exact s.jump_frame _
  | sei x nn | snei x nn | se x y | sne x y | skp x | sknp x => cases h; exact s.skipIf_frame _
  | ldi x nn | addi x nn | mov x y | or x y | and x y | xor x y | gdt x => cases h; exact s.setV_frame x _
  | add x y | sub x y | shr x y | rsb x y | shl x y => cases h; exact s.writeFlagged_frame x _ _
  | rnd x nn => cases h; exact (s.withBanks_frame _ _ _ _ _).narrow (by simp [Unchanged, partsWritten])
  | ldr x y => cases h; exact s.loadRegs_frame _ _
  | ldf x => obtain rfl := Host.Outcome.next.inj h; exact s.withV_frame _
  | idx nnn | addidx x | font x | bfont x => cases h; exact s.withIdx_frame _
  | idxl nnnn =>
    cases h
    exact ((s.withIdx_frame nnnn).mono (by simp [partsWritten])).trans ((State.jump_frame _ (s.pc + 2)).mono (by simp [partsWritten]))
  | bcd x => cases h; exact (s.storeBytes_frame s.idx (bcdDigits (s.getV x)) (by simp)).1
  | str x y => cases h; exact s.storeRegs_frame s.idx (regSpan_length_le x y)
  | stm x =>
    cases h
    exact ((s.storeRegs_frame s.idx (regsUpTo_length_le x)).mono (by simp [partsWritten])).trans
      ((State.advanceIndex_frame _ x).mono (by simp [partsWritten]))
  | ldm x =>
    cases h
    exact ((s.loadRegs_frame s.idx (regsUpTo x)).mono (by simp [partsWritten])).trans
      ((State.advanceIndex_frame _ x).mono (by simp [partsWritten]))
  | stf x | audio x | plane x =>
    cases h; exact (s.withBanks_frame _ _ _ _ _).narrow (by simp [Unchanged, partsWritten])
  | cls | scd n | scu n | scr | scl => cases h; exact s.withDisp_frame _
  | lores | hires => cases h; exact s.withScreen_frame _ _
  | draw x y n =>
    cases h
    exact ((s.withDisp_frame _).mono (by simp [partsWritten])).trans ((State.setV_frame _ vF _).mono (by simp [partsWritten]))
  | waitk x => cases h; exact s.withWait_frame true x
  | sdt x => cases h; exact s.withDt_frame _
  | sst x => cases h; exact s.withSt_frame _

/-- Settles O18: every meaning calls operations whose frames lie in the instruction's list (`exec_frame`). -/
theorem instructionFrames : Obligations.InstructionFrames :=
  fun _ _ _ h => exec_frame h

/-! ### Every instruction's registers -/

theorem State.writeFlagged_regs (s : State) (x : Reg) (b : Byte) (c : Bool) : RegsExcept [x, vF] s (s.writeFlagged x b c) := by
  intro r hr
  obtain ⟨hx, hvF⟩ : r ≠ x ∧ r ≠ vF := by simpa using hr
  rw [State.getV_writeFlagged, if_neg hvF, if_neg hx]

theorem flagLast_le (x : Reg) : flagLast x ≤ 7 := min_le_right _ _

/-- What `LDF` leaves in a register: the flag-bank byte up to the last register copied, the old value above it (R204). -/
theorem getV_execLdf (x : Reg) (s : State) : ∃ t, exec (.ldf x) s = .next t ∧ ∀ r : Reg, t.getV r =
    if h : r.toNat ≤ flagLast x then s.flags[r.toNat]'(Nat.lt_succ_of_le (h.trans (flagLast_le x))) else s.getV r := by
  refine ⟨_, rfl, fun r => ?_⟩
  by_cases hr : r.toNat ≤ flagLast x
  · have hr8 : r.toNat < 8 := Nat.lt_succ_of_le (hr.trans (flagLast_le x))
    simp [State.getV, hr, hr8]
  · simp [State.getV, hr]

theorem mem_regsUpTo_flagLast (x r : Reg) : r ∈ regsUpTo (BitVec.ofNat 4 (flagLast x)) ↔ r.toNat ≤ flagLast x := by
  have := flagLast_le x
  rw [mem_regsUpTo, BitVec.toNat_ofNat, Nat.mod_eq_of_lt (by omega)]

/-- An instruction that does not write the register file leaves every register. -/
theorem exec_regs_of_frame {i : Instr} {s t : State} (h : exec i s = .next t) (hv : .v ∉ partsWritten i) (rs : List Reg) :
    RegsExcept rs s t :=
  fun r _ => State.getV_congr (exec_frame h .v hv) r

theorem exec_regs {i : Instr} {s t : State} (h : exec i s = .next t) : RegsExcept (regsWritten i) s t := by
  cases i with
  | ldi x nn | addi x nn | mov x y | or x y | and x y | xor x y | gdt x | rnd x nn => cases h; exact s.setV_regs x _
  | add x y | sub x y | shr x y | rsb x y | shl x y => cases h; exact s.writeFlagged_regs x _ _
  | draw x y n => cases h; exact State.setV_regs _ vF _
  | ldr x y => cases h; exact fun r hr => s.getV_loadRegs_of_not_mem _ _ r hr
  | ldm x =>
    cases h
    exact fun r hr => (State.getV_congr (State.advanceIndex_v _ x) r).trans (s.getV_loadRegs_of_not_mem _ _ r hr)
  | ldf x =>
    obtain ⟨_, ht, hget⟩ := getV_execLdf x s
    cases ht.symm.trans h
    exact fun r hr => (hget r).trans (dif_neg fun hle => hr ((mem_regsUpTo_flagLast x r).mpr hle))
  | _ => exact exec_regs_of_frame h (by simp [partsWritten]) _

/-- Settles O19: the register writers write their own destinations alone, and every other instruction leaves the register file by its
frame (`exec_regs`). -/
theorem registerFrames : Obligations.RegisterFrames :=
  fun _ _ _ h => exec_regs h

end Sys2Proof.Machine
end

section
/-! Proofs for 40_fetch_dispatch.md, 41_control_transfer.md and 60_exceptions.md: what a Step does, that it always completes, the halts
and their record, and the call stack. -/

namespace Sys2Proof.Machine

/-! ### The Step, case by case -/

theorem State.stalled_eq_true_iff (s : State) : s.stalled = true ↔ s.halted = true ∨ s.waiting = true := by
  simp [State.stalled]

theorem State.stalled_eq_false {s : State} (hh : s.halted = false) (hw : s.waiting = false) : s.stalled = false := by
  simp [State.stalled, hh, hw]

theorem step_of_fetch {s : State} {i : Instr} (hs : s.stalled = false) (hf : s.fetchInstr = some i) :
    step s = exec i s.advancePc := by
  simp [step, hs, hf]

theorem step_of_unknown {s : State} (hs : s.stalled = false) (hf : s.fetchInstr = none) :
    step s = .next s.haltUnknown := by
  simp [step, hs, hf]

/-- Settles O7: the three cases of the Step (`step_of_stalled`, `step_of_fetch`, `step_of_unknown`). -/
theorem stepRunsDecodedInstruction : Obligations.StepRunsDecodedInstruction :=
  ⟨fun s h => step_of_stalled (s.stalled_eq_true_iff.mpr h),
    fun _ _ hh hw hd => step_of_fetch (State.stalled_eq_false hh hw) hd,
    fun _ hh hw hd => step_of_unknown (State.stalled_eq_false hh hw) hd⟩

/-- Every meaning answers a next state: its arm is built with `.next`. -/
theorem exec_completes (i : Instr) (s : State) : ∃ t, exec i s = .next t := by
  cases i <;> exact ⟨_, rfl⟩

theorem step_completes (s : State) : ∃ t, step s = .next t := by
  by_cases hs : s.stalled = true
  · exact ⟨s, step_of_stalled hs⟩
  rw [Bool.not_eq_true] at hs
  cases hf : s.fetchInstr with
  | none => exact ⟨_, step_of_unknown hs hf⟩
  | some i => exact step_of_fetch hs hf ▸ exec_completes i _

/-- Settles O8: no arm of the dispatch faults or refuses (`exec_completes`). -/
theorem execAlwaysCompletes : Obligations.ExecAlwaysCompletes := exec_completes

/-- Settles O9: a stalled step and an unknown word's halt are next states, and an instruction completes (`exec_completes`). -/
theorem stepAlwaysCompletes : Obligations.StepAlwaysCompletes := step_completes

/-! ### Halts -/

/-- An instruction enters the halt with a cause and its own word, changing nothing else, or leaves the halt record alone (R267). -/
theorem exec_halts_or_keeps {i : Instr} {s t : State} (h : exec i s = .next t) :
    (∃ c, c ≠ .none ∧ t = s.raiseHalt c (encodeWord i)) ∨ Unchanged s t .halt := by
  cases i with
  | halt | exit => cases h; exact .inl ⟨.exit, by decide, rfl⟩
  | call nnn =>
    obtain ⟨_, rfl⟩ | rfl := exec_call_cases h
    · exact .inr ⟨rfl, rfl, rfl⟩
    · exact .inl ⟨.stackOverflow, by decide, rfl⟩
  | ret =>
    obtain ⟨_, rfl⟩ | rfl := exec_ret_cases h
    · exact .inr ⟨rfl, rfl, rfl⟩
    · exact .inl ⟨.stackUnderflow, by decide, rfl⟩
  | _ => exact .inr (exec_frame h .halt (by simp [partsWritten]))

theorem State.advancePc_frame (s : State) : SameExcept [.pc] s s.advancePc := s.jump_frame _

/-- A step that enters the halt is the fetch advance and the halt with some cause and the word fetched (R262, R267). -/
theorem step_halts {s t : State} (h : step s = .next t) (hs : s.halted = false) (ht : t.halted = true) :
    ∃ c, c ≠ .none ∧ t = s.advancePc.raiseHalt c s.fetchOp := by
  obtain ⟨-, rfl⟩ | ⟨-, i, hf, he⟩ | ⟨-, -, rfl⟩ := step_cases h
  · simp [hs] at ht
  · obtain ⟨c, hc, rfl⟩ | ⟨hkept, -⟩ := exec_halts_or_keeps he
    · exact ⟨c, hc, by rw [encodeWord_of_decodeOp hf]⟩
    · simp [hkept, hs] at ht
  · exact ⟨.unknownOpcode, by decide, rfl⟩

/-- Settles O10: such a step is the fetch advance and then the halt (`step_halts`), which changes the halt record alone. -/
theorem haltsArePrecise : Obligations.HaltsArePrecise := by
  intro s t h hs ht
  obtain ⟨c, hc, rfl⟩ := step_halts h hs ht
  exact ⟨rfl, rfl, hc, (s.advancePc_frame.mono (by simp)).trans ((State.raiseHalt_frame _ c s.fetchOp).mono (by simp))⟩

theorem State.tick_frame (s : State) : SameExcept [.dt, .st] s s.tick := by
  unfold State.tick
  split
  · exact .refl s
  · exact (s.withDevices_frame s.v s.keys s.waiting s.waitReg _ _).narrow (by simp [Unchanged])

theorem State.keyDown_of_running {s : State} (hw : s.waiting = false) (k : BitVec 4) : s.keyDown k = s.setKey k true := by
  simp [State.keyDown, hw]

/-- A key-down changes its key and, when it ends a wait, a register and the wait (R272). -/
theorem State.keyDown_frame (s : State) (k : BitVec 4) : SameExcept [.v, .keys, .wait] s (s.keyDown k) := by
  cases hw : s.waiting with
  | true => exact State.keyDown_frame_of_waiting hw k
  | false => exact State.keyDown_of_running hw k ▸ (s.setKey_frame k true).mono (by simp)

/-- Settles O11: a halted core is stalled, so a step changes nothing, and no other event but Reset has the halt record outside its
frame. -/
theorem haltIsTerminal : Obligations.HaltIsTerminal := by
  intro e s t hs he h
  suffices hkept : Unchanged s t .halt ∧ (e = .step → t = s) by
    obtain ⟨⟨hh, hcause, hop⟩, hstep⟩ := hkept
    exact ⟨hh.trans hs, hcause, hop, hstep⟩
  cases e with
  | reset img => exact absurd rfl (he img)
  | step =>
    cases (step_of_stalled (s.stalled_eq_true_iff.mpr (.inl hs))).symm.trans h
    exact ⟨⟨rfl, rfl, rfl⟩, fun _ => rfl⟩
  | tick => cases h; exact ⟨s.tick_frame .halt (by simp), nofun⟩
  | keyDown k => cases h; exact ⟨s.keyDown_frame k .halt (by simp), nofun⟩
  | keyUp k => cases h; exact ⟨s.setKey_frame k false .halt (by simp), nofun⟩
  | sample => cases h; exact ⟨⟨rfl, rfl, rfl⟩, nofun⟩

theorem encodeWord_halt : encodeWord .halt = 0x0000 := by decide
theorem encodeWord_exit : encodeWord .exit = 0x00FD := by decide
theorem encodeWord_ret : encodeWord .ret = 0x00EE := by decide

/-- Settles O23: both are one halt with cause Exit, and the words recorded are the encodings, which evaluate. -/
theorem haltAndExitHalt : Obligations.HaltAndExitHalt :=
  fun s => ⟨⟨_, rfl, rfl, rfl, encodeWord_halt, s.raiseHalt_frame _ _⟩, ⟨_, rfl, rfl, rfl, encodeWord_exit, s.raiseHalt_frame _ _⟩⟩

/-! ### Words in memory -/

theorem append_toNat (hi lo : Byte) : (hi ++ lo).toNat = hi.toNat * 256 + lo.toNat := by
  rw [BitVec.toNat_append, Nat.shiftLeft_eq, Nat.mul_comm, ← Nat.two_pow_add_eq_or_of_lt lo.isLt, Nat.mul_comm]

/-- Settles O22: the word is the two bytes appended, high byte first, and the address after `a` wraps (`address_eq_iff`). -/
theorem wordReadIsBigEndian : Obligations.WordReadIsBigEndian := by
  intro s a
  have hnext : BitVec.ofNat 16 ((a + 1) % 65536) = BitVec.ofNat 16 a + 1 := by
    exact ((address_eq_iff ..).mpr (Nat.mod_mod ..)).trans (BitVec.ofNat_add a 1)
  rw [hnext, State.readWord, append_toNat]

/-- Two words placed at the pc are read back there (R62, R63, R90). -/
theorem State.readWord_placeWords (s : State) (op next : Word) :
    (s.placeWords op next).readWord s.pc = op ∧ (s.placeWords op next).readWord (s.pc + 2) = next := by
  have hbyte (z : Nat) (hz : z < (wordBytes op ++ wordBytes next).length) :
      (s.placeWords op next).readByte (s.pc + BitVec.ofNat 16 z) = (wordBytes op ++ wordBytes next)[z] :=
    s.readByte_storeBytes_offset s.pc (by simp [wordBytes]) hz
  have h0 : (s.placeWords op next).readByte s.pc = op.extractLsb' 8 8 := s.pc.add_zero ▸ hbyte 0 (by simp [wordBytes])
  have h1 : (s.placeWords op next).readByte (s.pc + 1) = op.extractLsb' 0 8 := hbyte 1 (by simp [wordBytes])
  have h2 : (s.placeWords op next).readByte (s.pc + 2) = next.extractLsb' 8 8 := hbyte 2 (by simp [wordBytes])
  have h3 : (s.placeWords op next).readByte (s.pc + 2 + 1) = next.extractLsb' 0 8 :=
    s.pc.add_assoc 2 1 ▸ hbyte 3 (by simp [wordBytes])
  exact ⟨by rw [State.readWord, h0, h1, bytes_join], by rw [State.readWord, h2, h3, bytes_join]⟩

/-- Settles O12: the fetch reads the two words back (`State.readWord_placeWords`), and placing them is a run of four byte writes. -/
theorem placedWordsAreFetched : Obligations.PlacedWordsAreFetched := by
  intro s op next
  obtain ⟨hparts, hbytes⟩ := s.storeBytes_frame s.pc (wordBytes op ++ wordBytes next) (by simp [wordBytes])
  obtain ⟨hop, hnext⟩ := s.readWord_placeWords op next
  have hpc : (s.placeWords op next).pc = s.pc := hparts .pc (by simp)
  have hfetch : (s.placeWords op next).fetchOp = op := by rw [State.fetchOp, hpc, hop]
  refine ⟨?_, hfetch, hbytes, hparts⟩
  rw [State.fetchInstr, hfetch, State.fetchNext, hpc, hnext]

/-! ### The call stack -/

theorem encodeWord_call_toNat (nnn : BitVec 12) : (encodeWord (.call nnn)).toNat = 0x2000 + nnn.toNat := by
  have hnnn := nnn.isLt
  have hsmall : nnn.toNat % 65536 = nnn.toNat := Nat.mod_eq_of_lt (by omega)
  have hadd : 2 ^ 12 * 2 + nnn.toNat = 2 ^ 12 * 2 ||| nnn.toNat := Nat.two_pow_add_eq_or_of_lt nnn.isLt 2
  simpa [encodeWord, Instr.opcode, Instr.operands, Operand.inWord, Field.lo, hsmall] using hadd.symm

/-- Settles O26: with room the call pushes and jumps (`exec_call_of_room`), and on a full stack it halts (`exec_call_of_full`). -/
theorem callPushesOrOverflows : Obligations.CallPushesOrOverflows := by
  refine fun nnn s => ⟨fun h => ⟨_, exec_call_of_room nnn h, addr12_toNat nnn, rfl, ?_, fun k hk hne => ?_, ?_⟩, fun h => ?_⟩
  · exact Vector.getElem_set_self h
  · exact Vector.getElem_set_ne h hk hne.symm
  · exact (s.withControl_frame _ _ _ s.halted s.haltCause s.haltOp).narrow (by simp [Unchanged])
  · exact ⟨_, exec_call_of_full nnn (by omega), rfl, rfl, encodeWord_call_toNat nnn, s.raiseHalt_frame _ _⟩

/-- Settles O27: with a valid entry the return pops it (`exec_ret_of_entry`), and on an empty stack it halts (`exec_ret_of_empty`). -/
theorem returnPopsOrUnderflows : Obligations.ReturnPopsOrUnderflows := by
  refine fun s => ⟨fun h => ⟨_, exec_ret_of_entry h, rfl, rfl, rfl, ?_⟩, fun h => ?_⟩
  · exact (s.withControl_frame _ s.stack _ s.halted s.haltCause s.haltOp).narrow (by simp [Unchanged])
  · exact ⟨_, exec_ret_of_empty (by omega), rfl, rfl, encodeWord_ret, s.raiseHalt_frame _ _⟩

/-- Settles O28: the call with room leaves a valid entry, so the return pops it, and the entry is the pc the call pushed. -/
theorem callThenReturnComesBack : Obligations.CallThenReturnComesBack := by
  intro nnn s h
  refine ⟨_, _, exec_call_of_room nnn h, exec_ret_of_entry (Nat.succ_pos _), ?_, rfl, fun k hk hlt => ?_, ?_⟩
  · exact Vector.getElem_set_self h
  · exact Vector.getElem_set_ne h hk (Nat.ne_of_gt hlt)
  · exact (s.withControl_frame _ _ _ s.halted s.haltCause s.haltOp).narrow (by simp [Unchanged])

end Sys2Proof.Machine
end

section
/-! Proofs for 44_display.md, R228 to R232: the plane mask and the sprite draw. A draw is one optional pass for each plane, and the two
passes touch different planes, so the draw inverts exactly the bits that `State.Inverts` names. -/

namespace Sys2Proof.Machine

/-- Settles O51: `PLANE` writes the two low bits of its field, and nothing else (`exec_frame`). -/
theorem planeSelectsField : Obligations.PlaneSelectsField :=
  fun x _ => ⟨_, rfl, by simp, exec_frame (i := .plane x) rfl⟩

/-! ### One plane of a draw -/

/-- The draw inverts plane `k`'s bit of the cell: the plane is selected and the sprite covers the cell (R231). -/
def State.Inverts (s : State) (n : BitVec 4) (ox oy : Nat) (k : PlaneId) (c r : Nat) : Prop :=
  s.selected k = true ∧ SpriteCovers s n (s.spritePtr n k) ox oy c r

/-- The draw's pass over plane `k`, if the plane is selected. -/
def State.drawPlane (s : State) (n : BitVec 4) (ox oy : Nat) (k : PlaneId) (acc : Display × Bool) : Display × Bool :=
  if s.selected k then s.drawPass n ox oy acc (k, s.spritePtr n k) else acc

/-- The whole draw is plane 1's pass and then plane 2's (R231, decision D15). -/
theorem State.drawSprite_eq (s : State) (n : BitVec 4) (ox oy : Nat) :
    s.drawSprite n ox oy = s.drawPlane n ox oy .two (s.drawPlane n ox oy .one (s.disp, false)) := by
  cases h1 : s.selected .one <;> cases h2 : s.selected .two <;>
    simp [State.drawSprite, State.drawPasses, State.drawPlane, State.spritePtr, h1, h2]

section
variable (s : State) (n : BitVec 4) (ox oy : Nat) (k : PlaneId) (acc : Display × Bool)

theorem State.bit_drawPlane_other {j : PlaneId} (hj : j ≠ k) (c r : Nat) :
    ((s.drawPlane n ox oy k acc).1.cell c r).bit j = (acc.1.cell c r).bit j := by
  unfold State.drawPlane
  split
  · rw [(s.drawPass_spec n ox oy acc k _).1, if_neg fun h => hj h.1]
  · rfl

theorem State.bit_drawPlane_inverted {c r : Nat} (h : s.Inverts n ox oy k c r) :
    ((s.drawPlane n ox oy k acc).1.cell c r).bit k = !(acc.1.cell c r).bit k := by
  rw [State.drawPlane, if_pos h.1, (s.drawPass_spec n ox oy acc k _).1, if_pos ⟨rfl, h.2⟩]

theorem State.bit_drawPlane_kept {c r : Nat} (h : ¬ s.Inverts n ox oy k c r) :
    ((s.drawPlane n ox oy k acc).1.cell c r).bit k = (acc.1.cell c r).bit k := by
  unfold State.drawPlane
  split
  · rw [(s.drawPass_spec n ox oy acc k _).1, if_neg fun hc => h ⟨‹_›, hc.2⟩]
  · rfl

/-- A pass adds a collision when it inverts a bit that was set. -/
theorem State.drawPlane_collides_iff :
    (s.drawPlane n ox oy k acc).2 = true ↔
      acc.2 = true ∨ ∃ c r, s.Inverts n ox oy k c r ∧ (acc.1.cell c r).bit k = true := by
  unfold State.drawPlane State.Inverts
  split
  · simp [(s.drawPass_spec n ox oy acc k _).2, *]
  · simp [*]

end

/-! ### The whole draw -/

section
variable (s : State) (n : BitVec 4) (ox oy : Nat)

/-- In each plane, the draw leaves what that plane's own pass leaves of the display before the draw. -/
theorem State.bit_drawSprite (k : PlaneId) (c r : Nat) : ∃ acc : Display × Bool,
    (acc.1.cell c r).bit k = (s.disp.cell c r).bit k ∧
    ((s.drawSprite n ox oy).1.cell c r).bit k = ((s.drawPlane n ox oy k acc).1.cell c r).bit k := by
  rw [State.drawSprite_eq]
  cases k with
  | one => exact ⟨(s.disp, false), rfl, s.bit_drawPlane_other n ox oy .two _ (by decide) c r⟩
  | two => exact ⟨_, s.bit_drawPlane_other n ox oy .one (s.disp, false) (by decide) c r, rfl⟩

theorem State.bit_drawSprite_inverted {k : PlaneId} {c r : Nat} (h : s.Inverts n ox oy k c r) :
    ((s.drawSprite n ox oy).1.cell c r).bit k = !(s.disp.cell c r).bit k := by
  obtain ⟨acc, hold, hpass⟩ := s.bit_drawSprite n ox oy k c r
  rw [hpass, s.bit_drawPlane_inverted n ox oy k acc h, hold]

theorem State.bit_drawSprite_kept {k : PlaneId} {c r : Nat} (h : ¬ s.Inverts n ox oy k c r) :
    ((s.drawSprite n ox oy).1.cell c r).bit k = (s.disp.cell c r).bit k := by
  obtain ⟨acc, hold, hpass⟩ := s.bit_drawSprite n ox oy k c r
  rw [hpass, s.bit_drawPlane_kept n ox oy k acc h, hold]

/-- Plane 1's pass leaves plane 2's bits, so each pass sees its plane as it was before the draw (R231). -/
theorem State.drawSprite_collides_iff : (s.drawSprite n ox oy).2 = true ↔ SpriteCollides s n ox oy := by
  have htwo (c r : Nat) := s.bit_drawPlane_other n ox oy .one (s.disp, false) (j := .two) (by decide) c r
  rw [State.drawSprite_eq, State.drawPlane_collides_iff, State.drawPlane_collides_iff]
  simp only [htwo, Bool.false_eq_true, false_or]
  constructor
  · rintro (⟨c, r, ⟨hs, hc⟩, hb⟩ | ⟨c, r, ⟨hs, hc⟩, hb⟩)
    · exact ⟨.one, c, r, hs, hc, hb⟩
    · exact ⟨.two, c, r, hs, hc, hb⟩
  · rintro ⟨k, c, r, hs, hc, hb⟩
    cases k with
    | one => exact .inl ⟨c, r, ⟨hs, hc⟩, hb⟩
    | two => exact .inr ⟨c, r, ⟨hs, hc⟩, hb⟩

end

/-! ### The instruction -/

theorem exec_draw (x y : Reg) (n : BitVec 4) (s : State) : ∃ t, exec (.draw x y n) s = .next t ∧
    t.disp = (s.drawSprite n (s.getV x).toNat (s.getV y).toNat).1 ∧
    t.getV vF = flagByte (s.drawSprite n (s.getV x).toNat (s.getV y).toNat).2 :=
  ⟨_, rfl, rfl, by rw [State.getV_setV, if_pos rfl]⟩

theorem flagByte_drawSprite (s : State) (n : BitVec 4) (ox oy : Nat) :
    (SpriteCollides s n ox oy → flagByte (s.drawSprite n ox oy).2 = 1) ∧
    (¬ SpriteCollides s n ox oy → flagByte (s.drawSprite n ox oy).2 = 0) := by
  rw [← State.drawSprite_collides_iff]
  exact ⟨fun h => by rw [h]; rfl, fun h => by rw [Bool.not_eq_true] at h; rw [h]; rfl⟩

/-- Settles O53: the bits by `State.bit_drawSprite_inverted` and `State.bit_drawSprite_kept`, the collision by
`State.drawSprite_collides_iff`, the rest by the instruction's frames. -/
theorem drawXorsSprite : Obligations.DrawXorsSprite := by
  intro x y n s
  obtain ⟨t, ht, hdisp, hflag⟩ := exec_draw x y n s
  obtain ⟨hcollides, hclear⟩ := flagByte_drawSprite s n (s.getV x).toNat (s.getV y).toNat
  refine ⟨t, ht, fun k c r hs hc => ?_, fun k c r h => ?_, hflag ▸ hcollides, hflag ▸ hclear, exec_regs ht, exec_frame ht⟩
  · rw [hdisp, s.bit_drawSprite_inverted n _ _ ⟨hs, hc⟩]
  · rw [hdisp, s.bit_drawSprite_kept n _ _ h]

/-- What a draw inverts depends only on the mask, the mode, `I`, the quirks and memory. -/
theorem State.inverts_congr {s u : State} (hplane : u.plane = s.plane) (hhires : u.hires = s.hires) (hidx : u.idx = s.idx)
    (hquirks : u.quirks = s.quirks) (hmem : ∀ a, u.readByte a = s.readByte a) (n : BitVec 4) (ox oy : Nat) (k : PlaneId)
    (c r : Nat) : u.Inverts n ox oy k c r ↔ s.Inverts n ox oy k c r := by
  have hselected : ∀ j, u.selected j = s.selected j := by rintro (_ | _) <;> simp [State.selected, hplane]
  have hwidth : u.width = s.width := by simp [State.width, hhires]
  have hheight : u.height = s.height := by simp [State.height, hhires]
  have hptr : u.spritePtr n k = s.spritePtr n k := by cases k <;> simp [State.spritePtr, hselected, hidx]
  simp only [State.Inverts, SpriteCovers, SpriteLands, State.spriteBit, State.clipped, hselected, hptr, hmem, hquirks,
    hwidth, hheight]

/-- Settles O54: the second draw inverts the same bits (`State.inverts_congr`), so each is as before the first; and a bit the first one
set is set when the second one inverts it, which is a collision. -/
theorem drawTwiceRestores : Obligations.DrawTwiceRestores := by
  intro x y n s
  obtain ⟨t, ht, hdisp, -⟩ := exec_draw x y n s
  refine ⟨t, ht, fun u hu hplane hhires hidx hquirks hmem hx hy => ?_⟩
  obtain ⟨w, hw, hwdisp, hflag⟩ := exec_draw x y n u
  rw [hx, hy] at hwdisp hflag
  have hsame := State.inverts_congr hplane hhires hidx hquirks hmem n (s.getV x).toNat (s.getV y).toNat
  refine ⟨w, hw, Display.ext_cell fun c r => Cell.ext_bit fun k => ?_, ?_⟩
  · rw [hwdisp]
    by_cases hi : s.Inverts n (s.getV x).toNat (s.getV y).toNat k c r
    · rw [u.bit_drawSprite_inverted n _ _ ((hsame k c r).mpr hi), hu, hdisp, s.bit_drawSprite_inverted n _ _ hi, Bool.not_not]
    · rw [u.bit_drawSprite_kept n _ _ (mt (hsame k c r).mp hi), hu, hdisp, s.bit_drawSprite_kept n _ _ hi]
  · rintro ⟨k, c, r, hs, hc, hb⟩
    obtain ⟨hsu, hcu⟩ := (hsame k c r).mpr ⟨hs, hc⟩
    have hset : (u.disp.cell c r).bit k = true := by
      rw [hu, hdisp, s.bit_drawSprite_inverted n _ _ ⟨hs, hc⟩, hb]; rfl
    rw [hflag]
    exact (flagByte_drawSprite u n _ _).1 ⟨k, c, r, hsu, hcu, hset⟩

end Sys2Proof.Machine
end

section
/-! Proofs for 10_state.md, R35, R39 and R45: the invariants hold at Reset and every event keeps them. Memory stays canonical, the cells
outside the active area stay clear, and the halt record changes only as `exec_halts_or_keeps` says. -/

namespace Sys2Proof.Machine

/-! ### Memory stays canonical -/

theorem exec_mem_wf {i : Instr} {s t : State} (hm : s.mem.wf) (h : exec i s = .next t) : t.mem.wf := by
  cases i with
  | bcd x | str x y => cases h; exact State.storeBytes_mem_wf hm _ _
  | stm x => cases h; exact (State.advanceIndex_mem _ x).symm ▸ State.storeBytes_mem_wf hm _ _
  | ldm x => cases h; rw [State.advanceIndex_mem, State.loadRegs_eq]; exact hm
  | ldr x y => cases h; rw [State.loadRegs_eq]; exact hm
  | ldf x => obtain rfl := Host.Outcome.next.inj h; exact hm
  | add x y | sub x y | shr x y | rsb x y | shl x y => cases h; rw [State.writeFlagged_mem]; exact hm
  | sei x nn | snei x nn | se x y | sne x y | skp x | sknp x => cases h; rw [State.skipIf_mem]; exact hm
  | call nnn => obtain ⟨_, rfl⟩ | rfl := exec_call_cases h <;> exact hm
  | ret => obtain ⟨_, rfl⟩ | rfl := exec_ret_cases h <;> exact hm
  | _ => cases h; exact hm

/-! ### Cells outside the active area stay clear -/

/-- Every cell outside the active area is clear (R35). -/
def State.InactiveClear (s : State) : Prop := ∀ c r, (s.width ≤ c ∨ s.height ≤ r) → s.disp.cell c r = Cell.clear

/-- The active area is the mode's. -/
theorem State.InactiveClear.of_kept {s t : State} (h : s.InactiveClear) (hhires : t.hires = s.hires)
    (hcell : ∀ c r, (s.width ≤ c ∨ s.height ≤ r) → t.disp.cell c r = s.disp.cell c r) : t.InactiveClear := by
  have hwidth : t.width = s.width := by simp [State.width, hhires]
  have hheight : t.height = s.height := by simp [State.height, hhires]
  intro c r hout
  rw [hwidth, hheight] at hout
  exact (hcell c r hout).trans (h c r hout)

/-- A draw inverts bits of the active area only: its coordinates are wrapped into it (R231). -/
theorem State.Inverts.active {s : State} {n : BitVec 4} {ox oy : Nat} {k : PlaneId} {c r : Nat} (h : s.Inverts n ox oy k c r) :
    c < s.width ∧ r < s.height := by
  obtain ⟨-, a, b, -, -, -, -, rfl, rfl⟩ := h
  exact ⟨Nat.mod_lt _ s.width_pos, Nat.mod_lt _ s.height_pos⟩

theorem exec_inactiveClear {i : Instr} {s t : State} (hs : s.InactiveClear) (h : exec i s = .next t) : t.InactiveClear := by
  cases i with
  | cls | lores | hires => cases h; exact fun c r _ => Display.cell_blank c r
  | scd n | scu n | scr | scl =>
    cases h
    exact hs.of_kept rfl fun c r hout => s.cell_scroll_inactive _ c r (by omega)
  | draw x y n =>
    cases h
    refine hs.of_kept rfl fun c r hout => Cell.ext_bit fun k => s.bit_drawSprite_kept n _ _ fun hi => ?_
    have := hi.active
    omega
  | _ =>
    have hdisp : t.disp = s.disp := exec_frame h .disp (by simp [partsWritten])
    exact hs.of_kept (exec_frame h .hires (by simp [partsWritten])) fun c r _ => by rw [hdisp]

/-! ### The invariants -/

/-- The invariants speak of memory, the display, the mode, the wait and the halt record alone, and a wait that ends keeps them. -/
theorem State.Inv.of_kept {s t : State} (h : s.Inv) (hmem : t.mem = s.mem) (hdisp : t.disp = s.disp)
    (hhires : t.hires = s.hires) (hwait : t.waiting = true → s.waiting = true) (hhalt : Unchanged s t .halt) : t.Inv := by
  obtain ⟨hh, hcause, hop⟩ := hhalt
  exact {
    mem_wf := hmem ▸ h.mem_wf
    inactive_clear := State.InactiveClear.of_kept h.inactive_clear hhires fun c r _ => by rw [hdisp]
    waiting_running := fun hw => hh ▸ h.waiting_running (hwait hw)
    running_record := fun hr => by rw [hcause, hop]; exact h.running_record (hh ▸ hr)
    halted_record := fun hr => hcause ▸ h.halted_record (hh ▸ hr) }

/-- An instruction that enters the wait leaves the halt record, and one that enters the halt does not wait (R45). -/
theorem exec_waiting_running {i : Instr} {s t : State} (hh : s.halted = false) (hw : s.waiting = false)
    (h : exec i s = .next t) (ht : t.waiting = true) : t.halted = false := by
  obtain ⟨c, -, rfl⟩ | ⟨hkept, -⟩ := exec_halts_or_keeps h
  · simp [hw] at ht
  · exact hkept.trans hh

theorem State.Inv.exec {i : Instr} {s t : State} (hs : s.Inv) (hh : s.halted = false) (hw : s.waiting = false)
    (h : exec i s = .next t) : t.Inv := by
  have hrecord := exec_halts_or_keeps h
  exact {
    mem_wf := exec_mem_wf hs.mem_wf h
    inactive_clear := exec_inactiveClear hs.inactive_clear h
    waiting_running := exec_waiting_running hh hw h
    running_record := fun hr => by
      obtain ⟨c, -, rfl⟩ | ⟨-, hcause, hop⟩ := hrecord
      · simp at hr
      · rw [hcause, hop]; exact hs.running_record hh
    halted_record := fun hr => by
      obtain ⟨c, hc, rfl⟩ | ⟨hkept, -⟩ := hrecord
      · exact hc
      · simp [hkept, hh] at hr }

theorem State.Inv.advancePc {s : State} (h : s.Inv) : s.advancePc.Inv := h.of_kept rfl rfl rfl id ⟨rfl, rfl, rfl⟩

/-- A halt with a cause keeps the invariants of a core that does not wait (R267). -/
theorem State.Inv.raiseHalt {s : State} (h : s.Inv) (hw : s.waiting = false) {c : HaltCause} (hc : c ≠ .none) (op : Word) :
    (s.raiseHalt c op).Inv where
  mem_wf := h.mem_wf
  inactive_clear := h.inactive_clear
  waiting_running ht := by simp [hw] at ht
  running_record hr := by simp at hr
  halted_record _ := hc

theorem State.Inv.step {s t : State} (hs : s.Inv) (h : step s = .next t) : t.Inv := by
  obtain ⟨-, rfl⟩ | ⟨hrun, i, -, he⟩ | ⟨hrun, -, rfl⟩ := step_cases h
  · exact hs
  · obtain ⟨hh, hw⟩ : s.halted = false ∧ s.waiting = false := by simpa [State.stalled] using hrun
    exact hs.advancePc.exec hh hw he
  · obtain ⟨-, hw⟩ : s.halted = false ∧ s.waiting = false := by simpa [State.stalled] using hrun
    exact hs.advancePc.raiseHalt hw (by decide) _

theorem State.Inv.keyDown {s : State} (hs : s.Inv) (k : BitVec 4) : (s.keyDown k).Inv := by
  cases hw : s.waiting with
  | true => rw [State.keyDown_of_waiting hw]; exact hs.of_kept rfl rfl rfl nofun ⟨rfl, rfl, rfl⟩
  | false => rw [State.keyDown_of_running hw]; exact hs.of_kept rfl rfl rfl id ⟨rfl, rfl, rfl⟩

theorem State.Inv.tick {s : State} (hs : s.Inv) : s.tick.Inv := by
  unfold State.tick
  split
  · exact hs
  · exact hs.of_kept rfl rfl rfl id ⟨rfl, rfl, rfl⟩

theorem State.Inv.deliver {e : Event} {s t : State} (hs : s.Inv) (h : deliver e s = .next t) : t.Inv := by
  cases e with
  | reset img => cases h; exact (boot_inv img).of_kept rfl rfl rfl id ⟨rfl, rfl, rfl⟩
  | step => exact hs.step h
  | tick => cases h; exact hs.tick
  | keyDown k => cases h; exact hs.keyDown k
  | keyUp k => cases h; exact hs.of_kept rfl rfl rfl id ⟨rfl, rfl, rfl⟩
  | sample => cases h; exact hs

/-- Settles O13: a stalled step keeps the state, an unknown word halts with a cause, and an instruction keeps each invariant
(`State.Inv.exec`). -/
theorem stepKeepsInvariants : Obligations.StepKeepsInvariants :=
  fun _ _ hs h => hs.step h

/-- Settles O14: the step by O13's lemma, Reset by its own state, and the other events by what they leave (`State.Inv.of_kept`). -/
theorem eventsKeepInvariants : Obligations.EventsKeepInvariants :=
  fun _ _ _ hs h => hs.deliver h

theorem Reachable.inv {s : State} (h : Reachable s) : s.Inv := by
  induction h with
  | boot img => exact boot_inv img
  | event e _ he ih => exact ih.deliver he

/-- Settles O15: by induction over the events (`Reachable.inv`); the two ranges are those of the types. -/
theorem reachableStatesMeetInvariants : Obligations.ReachableStatesMeetInvariants :=
  fun s h => ⟨h.inv, Nat.le_of_lt_succ s.sp.isLt, Nat.le_of_lt_succ s.plane.isLt⟩

/-- Settles O16: the reset state is the Reset of the blank image (`boot_blankImage`). -/
theorem resetStateMeetsInvariants : Obligations.ResetStateMeetsInvariants :=
  (congrArg State.Inv boot_blankImage).mp (boot_inv blankImage)

end Sys2Proof.Machine
end

section
/-! Proofs for 42_alu.md, R161, R166 to R170, R173 and R175: the flag-writing operations share `exec_writes_flagged`; the sums,
differences, shifts and flags are then facts about bytes. -/

namespace Sys2Proof.Machine

/-- Settles O32: one register write (`exec_writes_register`) of the 8-bit sum. -/
theorem addImmediateWraps : Obligations.AddImmediateWraps := by
  intro x nn s
  obtain ⟨t, ht, hx, hregs, hframe⟩ := exec_writes_register (i := .addi x nn) (s := s) rfl
  exact ⟨t, ht, by rw [hx, BitVec.toNat_add], hregs, hframe⟩

/-- Settles O37: the byte written is the free value and the mask, so no bit outside the mask is left. -/
theorem randomIsMasked : Obligations.RandomIsMasked := by
  intro x nn s
  obtain ⟨t, ht⟩ := exec_completes (.rnd x nn) s
  have hx : t.getV x = Config.rnd s.rndIndex &&& nn := by
    cases ht
    exact (State.getV_setV s x _ x).trans (if_pos rfl)
  have hindex : t.rndIndex = s.rndIndex + 1 := by cases ht; rfl
  refine ⟨t, ht, hx, ?_, hindex, exec_regs ht, exec_frame ht⟩
  rw [hx, BitVec.and_assoc, BitVec.and_not_self]
  exact BitVec.and_zero

/-! ### The flag-writing operations -/

/-- An instruction whose whole effect is the flag-writing procedure has the result R161 states, at every `x`. -/
theorem exec_writes_flagged {i : Instr} {s : State} {x : Reg} {b : Byte} {c : Bool} {val flag : Nat}
    (he : exec i s = .next (s.writeFlagged x b c)) (hb : b.toNat = val) (hc : (flagByte c).toNat = flag) :
    ∃ t, exec i s = .next t ∧ FlaggedResult s t x val flag := by
  subst hb hc
  refine ⟨_, he, fun hx => ?_, fun hx => ?_, s.writeFlagged_regs x b c, s.writeFlagged_frame x b c⟩
  · simp [State.getV_writeFlagged, hx]
  · subst hx
    cases hq : s.quirks.vfFirst <;> simp [State.getV_writeFlagged, hq]

theorem flagByte_toNat (p : Prop) [Decidable p] : (flagByte (decide p)).toNat = if p then 1 else 0 := by
  by_cases h : p <;> simp [flagByte, h]

theorem sub_toNat (a b : Byte) : (a - b).toNat = (a.toNat + 256 - b.toNat) % 256 := by
  have := b.isLt
  rw [BitVec.toNat_sub]
  congr 1
  omega

/-- Settles O34: the 8-bit sum and the carry, through `exec_writes_flagged`. -/
theorem addWritesCarry : Obligations.AddWritesCarry :=
  fun _ _ _ => exec_writes_flagged rfl (BitVec.toNat_add ..) (flagByte_toNat _)

/-- Settles O35: the two differences (`sub_toNat`) and their not-borrow flags, through `exec_writes_flagged`. -/
theorem subtractWritesNotBorrow : Obligations.SubtractWritesNotBorrow :=
  fun _ _ _ => ⟨exec_writes_flagged rfl (sub_toNat ..) (flagByte_toNat _),
    exec_writes_flagged rfl (sub_toNat ..) (flagByte_toNat _)⟩

/-! ### The shifts -/

theorem State.shiftSource_eq (s : State) (x y : Reg) : s.shiftSource x y = s.getV (if s.quirks.shiftVx then x else y) :=
  (apply_ite s.getV ..).symm

theorem flagByte_outRight_toNat (a : Byte) : (flagByte (outRight a)).toNat = a.toNat % 2 := by
  rw [outRight, BitVec.getLsbD, Nat.testBit_zero, flagByte_toNat]
  split <;> omega

theorem flagByte_outLeft_toNat (a : Byte) : (flagByte (outLeft a)).toNat = a.toNat / 128 := by
  have := a.isLt
  rw [outLeft, BitVec.getLsbD, Nat.testBit_eq_decide_div_mod_eq, flagByte_toNat]
  split <;> omega

theorem shiftRight_one_toNat (a : Byte) : (a >>> 1).toNat = a.toNat / 2 := BitVec.toNat_ushiftRight ..

theorem shiftLeft_one_toNat (a : Byte) : (a <<< 1).toNat = a.toNat * 2 % 256 := by
  rw [BitVec.toNat_shiftLeft, Nat.shiftLeft_eq]

/-- Settles O36: each shift writes its source halved or doubled and the bit shifted out, through `exec_writes_flagged`; the source is
the register the quirk selects (`State.shiftSource_eq`). -/
theorem shiftsWriteBitOut : Obligations.ShiftsWriteBitOut := by
  intro x y s
  rw [← s.shiftSource_eq x y]
  exact ⟨exec_writes_flagged rfl (shiftRight_one_toNat _) (flagByte_outRight_toNat _),
    exec_writes_flagged rfl (shiftLeft_one_toNat _) (flagByte_outLeft_toNat _)⟩

end Sys2Proof.Machine
end

section
/-! Proofs for 43_memory_index.md, R191 to R205: the index register, the register stores and loads with their ranges, the flag bank and
the audio pattern. -/

namespace Sys2Proof.Machine

/-! ### The index register -/

/-- The word 0xF000 is the long form, with the word after it as operand (R99, R191). -/
theorem decodeOp_idxl (next : Word) : decodeOp 0xF000 next = some (.idxl next) :=
  have hword : encodeWord (.idxl next) = 0xF000 := BitVec.or_zero
  hword ▸ decodeOp_encodeWord (by rintro _ ⟨⟩; rfl)

/-- Settles O39: `IDXL` loads its operand and steps over it; in memory, the bytes F0 00 decode to it with the next word as operand
(`decodeOp_idxl`), and that word is big-endian (`append_toNat`). -/
theorem indexLongImmediate : Obligations.IndexLongImmediate := by
  refine ⟨fun nnnn s => ⟨_, rfl, rfl, rfl, exec_frame (i := .idxl nnnn) rfl⟩, fun s hh hw hhi hlo => ?_⟩
  have hop : s.fetchOp = 0xF000 := by rw [State.fetchOp, State.readWord, hhi, hlo]; rfl
  have hfetch : s.fetchInstr = some (.idxl s.fetchNext) := by rw [State.fetchInstr, hop, decodeOp_idxl]
  have hstep : step s = exec (.idxl s.fetchNext) s.advancePc := step_of_fetch (State.stalled_eq_false hh hw) hfetch
  refine ⟨_, hstep, ?_, s.pc.add_assoc 2 2, (s.advancePc_frame.mono (by simp)).trans (exec_frame (i := .idxl s.fetchNext) rfl)⟩
  have hnext : s.pc + 2 + 1 = s.pc + 3 := s.pc.add_assoc 2 1
  rw [← hnext]
  exact append_toNat _ _

/-- Settles O40: the 16-bit sum of `I` and the zero-extended register. -/
theorem addToIndexWraps : Obligations.AddToIndexWraps := by
  refine fun x s => ⟨_, rfl, ?_, s.withIdx_frame _⟩
  rw [BitVec.toNat_add, BitVec.toNat_setWidth_of_le (by decide)]

/-- Settles O41: the digit is a remainder modulo 16 (`lowNibble_toNat`), so neither glyph address wraps. -/
theorem fontAddresses : Obligations.FontAddresses := by
  intro x s
  have hdigit := (lowNibble (s.getV x)).isLt
  have hsmall : (smallFontAddr (lowNibble (s.getV x))).toNat = (s.getV x).toNat % 16 * 5 := by
    rw [smallFontAddr, BitVec.toNat_ofNat, Nat.mod_eq_of_lt (by omega), lowNibble_toNat]
  have hlarge : (largeFontAddr (lowNibble (s.getV x))).toNat = (s.getV x).toNat % 16 * 10 + 80 := by
    rw [largeFontAddr, BitVec.toNat_ofNat, Nat.mod_eq_of_lt (by omega), lowNibble_toNat]
  exact ⟨⟨_, rfl, hsmall, s.withIdx_frame _⟩, ⟨_, rfl, hlarge, s.withIdx_frame _⟩⟩

/-! ### Stores and loads of a list of registers -/

/-- The `z`th register stored is at offset `z` (R198, R200). -/
theorem State.readByte_storeRegs (s : State) (a : Word) {rs : List Reg} (hl : rs.length ≤ 65536) {z : Nat} {r : Reg}
    (hz : z < rs.length) (hr : rs[z] = r) : (s.storeBytes a (rs.map s.getV)).readByte (a + BitVec.ofNat 16 z) = s.getV r := by
  rw [s.readByte_storeBytes_offset a (by simpa using hl) (by simpa using hz), List.getElem_map, hr]

/-- A store of registers leaves every byte outside its run (R198, R200). -/
theorem State.storeRegs_memExcept (s : State) (a : Word) {rs : List Reg} (hl : rs.length ≤ 65536) :
    MemExcept a rs.length s (s.storeBytes a (rs.map s.getV)) := by
  simpa using (s.storeBytes_frame a (rs.map s.getV) (by simpa using hl)).2

/-- The `z`th register loaded holds the byte at offset `z` (R199, R201). -/
theorem State.getV_loadRegs_of_getElem (s : State) (a : Word) {rs : List Reg} (hn : rs.Nodup) {z : Nat} {r : Reg}
    (hz : z < rs.length) (hr : rs[z] = r) : (s.loadRegs a rs).getV r = s.readByte (a + BitVec.ofNat 16 z) :=
  hr ▸ s.getV_loadRegs a rs hn z hz

/-! ### Registers 0 to x -/

theorem regsUpTo_getElem_toNat {x r : Reg} (h : r.toNat ≤ x.toNat) :
    ∃ hr : r.toNat < (regsUpTo x).length, (regsUpTo x)[r.toNat] = r :=
  ⟨by rw [regsUpTo_length]; omega, by rw [regsUpTo_getElem, BitVec.ofNat_toNat, BitVec.setWidth_eq]⟩

/-- Settles O43: the store of registers 0 to x, whose bytes the index advance leaves alone. -/
theorem storeRegistersUpTo : Obligations.StoreRegistersUpTo := by
  intro x s
  have hl := regsUpTo_length_le x
  have hread (c : Word) : ((s.storeBytes s.idx ((regsUpTo x).map s.getV)).advanceIndex x).readByte c =
      (s.storeBytes s.idx ((regsUpTo x).map s.getV)).readByte c :=
    State.readByte_congr (State.advanceIndex_mem _ x) c
  have hidx : (s.storeBytes s.idx ((regsUpTo x).map s.getV)).idx = s.idx := s.storeRegs_frame s.idx hl .idx (by simp)
  refine ⟨_, rfl, fun r hr => ?_, ?_, fun c hc => ?_, exec_frame (i := .stm x) rfl⟩
  · obtain ⟨hz, hget⟩ := regsUpTo_getElem_toNat hr
    rw [hread, s.readByte_storeRegs s.idx hl hz hget]
  · rw [State.advanceIndex_idx, State.storeBytes_quirks, hidx]
  · rw [hread, s.storeRegs_memExcept s.idx hl c (by simpa using hc)]

/-- Settles O44: the load of registers 0 to x, which the index advance leaves alone. -/
theorem loadRegistersUpTo : Obligations.LoadRegistersUpTo := by
  intro x s
  have hget (r : Reg) : ((s.loadRegs s.idx (regsUpTo x)).advanceIndex x).getV r = (s.loadRegs s.idx (regsUpTo x)).getV r :=
    State.getV_congr (State.advanceIndex_v _ x) r
  have hidx : (s.loadRegs s.idx (regsUpTo x)).idx = s.idx := s.loadRegs_frame _ _ .idx (by simp)
  refine ⟨_, rfl, fun r => ?_, ?_, exec_frame (i := .ldm x) rfl⟩
  · rw [hget]
    split
    · obtain ⟨hz, hr⟩ := regsUpTo_getElem_toNat ‹_›
      exact s.getV_loadRegs_of_getElem s.idx (regsUpTo_nodup x) hz hr
    · exact s.getV_loadRegs_of_not_mem _ _ r (mt (mem_regsUpTo x r).mp ‹_›)
  · rw [State.advanceIndex_idx, State.loadRegs_quirks, hidx]

/-! ### The range from x to y -/

theorem spanDist_eq_regDist (x y : Reg) : spanDist x y = regDist x y := by
  unfold spanDist regDist
  split <;> omega

/-- A register between `x` and `y` stands in the range at its distance from `x` (R200). -/
theorem regSpan_getElem_regDist {x y r : Reg} (h : Between x y r) :
    ∃ hr : regDist x r < (regSpan x y).length, (regSpan x y)[regDist x r] = r := by
  have hx := x.isLt
  have hr := r.isLt
  have hlt : regDist x r < (regSpan x y).length := by
    rw [regSpan_length, spanDist_eq_regDist]
    unfold Between at h
    unfold regDist
    omega
  refine ⟨hlt, BitVec.eq_of_toNat_eq ?_⟩
  rw [regSpan_getElem, spanReg]
  unfold Between at h
  unfold regDist
  split <;> rw [BitVec.toNat_ofNat] <;> omega

theorem between_of_mem_regSpan {x y r : Reg} (h : r ∈ regSpan x y) : Between x y r := by
  have hx := x.isLt
  have hy := y.isLt
  obtain ⟨z, hz, rfl⟩ := List.mem_iff_getElem.mp h
  rw [regSpan_length, spanDist] at hz
  rw [regSpan_getElem, spanReg, Between]
  split_ifs at hz ⊢ <;> rw [BitVec.toNat_ofNat] <;> omega

/-- Settles O45: the store of the range, each register at its distance from `x` (`regSpan_getElem_regDist`). -/
theorem storeRegisterRange : Obligations.StoreRegisterRange := by
  intro x y s
  have hl := regSpan_length_le x y
  refine ⟨_, rfl, fun r hr => ?_, ?_, exec_frame (i := .str x y) rfl⟩
  · obtain ⟨hz, hget⟩ := regSpan_getElem_regDist hr
    exact s.readByte_storeRegs s.idx hl hz hget
  · rw [← spanDist_eq_regDist, ← regSpan_length]
    exact s.storeRegs_memExcept s.idx hl

/-- Settles O46: the load of the range, each register from its distance to `x` (`regSpan_getElem_regDist`), and the range holds no
register outside it. -/
theorem loadRegisterRange : Obligations.LoadRegisterRange := by
  intro x y s
  refine ⟨_, rfl, fun r hr => ?_, fun r hr => ?_, exec_frame (i := .ldr x y) rfl⟩
  · obtain ⟨hz, hget⟩ := regSpan_getElem_regDist hr
    exact s.getV_loadRegs_of_getElem s.idx (regSpan_nodup x y) hz hget
  · exact s.getV_loadRegs_of_not_mem _ _ r (mt between_of_mem_regSpan hr)

/-- Settles O47: the load reads each register of the range from where the store put it (O45, O46). -/
theorem rangeRoundTrip : Obligations.RangeRoundTrip := by
  intro x y s
  obtain ⟨t, ht, hstored, -⟩ := storeRegisterRange x y s
  refine ⟨t, ht, fun u hidx hmem => ?_⟩
  obtain ⟨w, hw, hloaded, -⟩ := loadRegisterRange x y u
  refine ⟨w, hw, fun r hr => ?_⟩
  rw [hloaded r hr, hidx, hmem, hstored r hr]

/-! ### The flag bank and the audio pattern -/

/-- Settles O48: `STF` writes the bank entry by entry, and `LDF` the registers (`getV_execLdf`). -/
theorem flagBankCopies : Obligations.FlagBankCopies := by
  intro x s
  obtain ⟨t, ht, hget⟩ := getV_execLdf x s
  refine ⟨⟨_, rfl, fun z hz => Vector.getElem_ofFn hz, exec_frame (i := .stf x) rfl⟩,
    t, ht, fun z hz hle => ?_, fun r hr => ?_, exec_frame ht⟩
  · have hreg : (BitVec.ofNat 4 z).toNat = z := Nat.mod_eq_of_lt (by omega)
    rw [hget, dif_pos (by rwa [hreg])]
    simp only [hreg]
  · exact (hget r).trans (dif_neg (Nat.not_le.mpr hr))

/-- Settles O49: the pattern is written entry by entry, and its field `x` is not read. -/
theorem audioCopiesPattern : Obligations.AudioCopiesPattern :=
  fun x _ => ⟨_, rfl, fun _ hz => Vector.getElem_ofFn hz, exec_frame (i := .audio x) rfl⟩

end Sys2Proof.Machine
end

section
/-! Proofs for 60_exceptions.md, R270 to R274, and 70_reset_and_hazards.md, R300 and R301: the host's events Tick, KeyDown, KeyUp,
Sample and Reset. -/

namespace Sys2Proof.Machine

/-! ### Timers and keys -/

/-- A timer's decrement stops at 0, as the difference of natural numbers does (R270). -/
theorem countDown_toNat (t : Byte) : (countDown t).toNat = t.toNat - 1 := by
  unfold countDown
  split
  · subst t; rfl
  · bv_omega

/-- Settles O57: a waiting core's timers stand still (`State.tick_of_waiting`), else each counts down (`countDown_toNat`). -/
theorem tickCountsDown : Obligations.TickCountsDown := by
  intro s
  refine ⟨_, rfl, ?_, ?_, s.tick_frame⟩ <;> cases hw : s.waiting <;> simp [State.tick, hw, countDown_toNat]

theorem State.key_keyDown (s : State) (k j : BitVec 4) : (s.keyDown k).key j = if j = k then true else s.key j := by
  cases hw : s.waiting with
  | true => rw [State.keyDown_of_waiting hw]; exact s.key_setKey k true j
  | false => rw [State.keyDown_of_running hw, s.key_setKey k true j]

/-- Settles O58: each event writes its own key (`State.key_keyDown`, `State.key_setKey`), and a key-down of a core that does not wait is
that write alone (`State.keyDown_of_running`). -/
theorem keyEventsMaintainKeys : Obligations.KeyEventsMaintainKeys := by
  refine fun k s => ⟨⟨_, rfl, s.key_keyDown k, (s.keyDown_frame k).mono (by simp), fun hw => ?_⟩,
    ⟨_, rfl, s.key_setKey k false, s.setKey_frame k false⟩⟩
  rw [State.keyDown_of_running hw]
  exact s.setKey_frame k true

/-! ### Sample -/

theorem State.sample_cell (s : State) {c r : Nat} (hc : c < s.width) (hr : r < s.height) :
    (s.sample.cells[r]?.bind fun row => row[c]?) = some ((s.disp.cell c r).code) := by
  simp [State.sample, State.dispCell, hc, hr]

/-- Settles O59: each output is its state field, and the cells are tabulated over the active area (`State.sample_cell`). -/
theorem sampleReadsOutputs : Obligations.SampleReadsOutputs :=
  fun s => ⟨rfl, rfl, rfl, rfl, rfl, rfl, rfl, rfl, rfl, by simp [State.sample], fun _ _ => s.sample_cell⟩

/-! ### Reset's memory -/

theorem Memory.read_load_inside (m : Memory) {a c : Nat} {bs : List Byte} (ha : a ≤ c) (hc : c - a < bs.length) :
    (m.load a bs).read c = bs[c - a] := by
  rw [Memory.read_load, dif_pos ⟨ha, hc⟩]

theorem Memory.read_load_outside (m : Memory) {a c : Nat} {bs : List Byte} (h : c < a ∨ a + bs.length ≤ c) :
    (m.load a bs).read c = m.read c := by
  rw [Memory.read_load, dif_neg (by omega)]

/-- An entry of equal runs laid end to end is an entry of one of them. -/
theorem getElem?_flatMap_toList {n : Nat} (hn : 0 < n) (gs : List (Vector Byte n)) (z : Nat) :
    (gs.flatMap fun g => g.toList)[z]? = gs[z / n]?.bind fun g => g[z % n]? := by
  induction gs generalizing z with
  | nil => simp
  | cons g gs ih =>
    rw [List.flatMap_cons]
    by_cases hz : z < n
    · rw [List.getElem?_append_left (by simpa using hz), Nat.div_eq_of_lt hz, Nat.mod_eq_of_lt hz]
      simp
    · obtain ⟨d, rfl⟩ : ∃ d, z = d + n := ⟨z - n, by omega⟩
      rw [List.getElem?_append_right (by simp), Nat.add_div_right _ hn, Nat.add_mod_right]
      simpa using ih d

theorem ResetImage.fontLargeBytes_length (img : ResetImage) : img.fontLargeBytes.length = 10 * img.fontLarge.length := by
  simp [ResetImage.fontLargeBytes, Nat.mul_comm]

/-- What Reset's memory holds at an address: the small font, then the large one, then from 0x200 the program, else 0 (R301). -/
theorem ResetImage.read_memory (img : ResetImage) (a : Nat) : img.memory.read a =
    if h : a < 80 then img.fontSmall[a]
    else if a < 80 + 10 * img.fontLarge.length then
      ((img.fontLarge[(a - 80) / 10]?.bind fun g => g[(a - 80) % 10]?).getD 0)
    else if 0x200 ≤ a then (img.program[a - 0x200]?).getD 0
    else 0 := by
  have hfits := img.fontLarge_fits
  have hlarge := img.fontLargeBytes_length
  unfold ResetImage.memory
  split_ifs with hsmall hfont hprogram
  · rw [Memory.read_load_outside _ (.inl (by omega)), Memory.read_load_outside _ (.inl (by omega)),
      Memory.read_load_inside _ (Nat.zero_le a) (by simpa using hsmall)]
    simp
  · rw [Memory.read_load_outside _ (.inl (by omega)), Memory.read_load_inside _ (by omega) (by omega),
      ← getElem?_flatMap_toList (by decide)]
    exact (congrArg (Option.getD · 0) (List.getElem?_eq_getElem _)).symm
  · by_cases hlt : a - 0x200 < img.program.length
    · rw [Memory.read_load_inside _ hprogram hlt, List.getElem?_eq_getElem hlt]; rfl
    · rw [Memory.read_load_outside _ (.inr (by omega)), Memory.read_load_outside _ (.inr (by omega)),
        Memory.read_load_outside _ (.inr (by simp; omega)), List.getElem?_eq_none (by omega)]; rfl
  · rw [Memory.read_load_outside _ (.inl (by omega)), Memory.read_load_outside _ (.inr (by omega)),
      Memory.read_load_outside _ (.inr (by simp; omega))]; rfl

/-- Settles O60: every register is as `State.reset` has it, and memory by `ResetImage.read_memory`. -/
theorem resetEventLeavesResetState : Obligations.ResetEventLeavesResetState := by
  intro img s
  refine ⟨_, rfl, rfl, rfl, rfl, rfl, rfl, rfl, rfl, rfl, rfl, rfl, rfl, rfl, rfl, fun r => ?_, fun k => ?_,
    fun z hz => ?_, fun z hz => ?_, fun z hz => ?_, Display.cell_blank, fun a ha => ?_⟩
  iterate 5 exact Vector.getElem_replicate _
  · rw [← img.read_memory a, State.readByte, BitVec.toNat_ofNat, Nat.mod_eq_of_lt ha]; rfl

end Sys2Proof.Machine
end

section
/-! Proofs for 10_state.md, R29, R39 and R41: the sound timer, the halt record and the audio pattern are outputs only. Every operation
commutes with replacing them, so every instruction does, up to the outputs it writes itself. -/

namespace Sys2Proof.Machine

/-- The state with other output values: the sound timer, the halt record and the audio pattern. -/
def State.withOutputs (s : State) (st : Byte) (c : HaltCause) (op : Word) (p : Vector Byte 16) : State :=
  { s with st := st, haltCause := c, haltOp := op, pattern := p }

/-- The two states differ in the outputs alone: given the first one's outputs, the second is the first. -/
def AgreeButOutputs (t u : State) : Prop := u.withOutputs t.st t.haltCause t.haltOp t.pattern = t

section
variable (s : State) (st : Byte) (c : HaltCause) (op : Word) (p : Vector Byte 16)

theorem State.skipIf_withOutputs (b : Bool) :
    (s.withOutputs st c op p).skipIf b = (s.skipIf b).withOutputs st c op p := by
  cases b <;> rfl

theorem State.writeFlagged_withOutputs (x : Reg) (b : Byte) (f : Bool) :
    (s.withOutputs st c op p).writeFlagged x b f = (s.writeFlagged x b f).withOutputs st c op p := by
  have hquirks : (s.withOutputs st c op p).quirks = s.quirks := rfl
  unfold State.writeFlagged
  rw [hquirks]
  split <;> rfl

theorem State.advanceIndex_withOutputs (x : Reg) :
    (s.withOutputs st c op p).advanceIndex x = (s.advanceIndex x).withOutputs st c op p := by
  have hquirks : (s.withOutputs st c op p).quirks = s.quirks := rfl
  unfold State.advanceIndex
  rw [hquirks]
  split <;> rfl

theorem State.storeBytes_withOutputs (a : Word) (bs : List Byte) :
    (s.withOutputs st c op p).storeBytes a bs = (s.storeBytes a bs).withOutputs st c op p := by
  induction bs generalizing s a with
  | nil => rfl
  | cons b bs ih => exact ih (s.writeByte a b) (a + 1)

theorem State.loadRegs_withOutputs (a : Word) (rs : List Reg) :
    (s.withOutputs st c op p).loadRegs a rs = (s.loadRegs a rs).withOutputs st c op p := by
  induction rs generalizing s a with
  | nil => rfl
  | cons r rs ih => exact ih (s.setV r (s.readByte a)) (a + 1)

/-- An instruction that commutes with replacing the outputs. -/
theorem agree_of_commutes {i : Instr} {t u : State} (ht : exec i s = .next t)
    (hu : exec i (s.withOutputs st c op p) = .next u) (hcommutes : u = t.withOutputs st c op p) :
    ∃ t' u', exec i s = .next t' ∧ exec i (s.withOutputs st c op p) = .next u' ∧ AgreeButOutputs t' u' :=
  ⟨t, u, ht, hu, hcommutes ▸ rfl⟩

/-- An instruction run from two states that differ in the outputs alone leaves two states that differ in them alone. -/
theorem exec_withOutputs (i : Instr) : ∃ t u, exec i s = .next t ∧ exec i (s.withOutputs st c op p) = .next u ∧
    AgreeButOutputs t u := by
  cases i with
  | call nnn =>
    by_cases hroom : s.sp.val < 16
    · exact ⟨_, _, exec_call_of_room nnn hroom, exec_call_of_room (s := s.withOutputs st c op p) nnn hroom, rfl⟩
    · exact ⟨_, _, exec_call_of_full nnn hroom, exec_call_of_full (s := s.withOutputs st c op p) nnn hroom, rfl⟩
  | ret =>
    by_cases hentry : 0 < s.sp.val
    · exact ⟨_, _, exec_ret_of_entry hentry, exec_ret_of_entry (s := s.withOutputs st c op p) hentry, rfl⟩
    · exact ⟨_, _, exec_ret_of_empty hentry, exec_ret_of_empty (s := s.withOutputs st c op p) hentry, rfl⟩
  | sei x nn | snei x nn | se x y | sne x y | skp x | sknp x =>
    exact agree_of_commutes s st c op p rfl rfl (s.skipIf_withOutputs st c op p _)
  | add x y | sub x y | shr x y | rsb x y | shl x y =>
    exact agree_of_commutes s st c op p rfl rfl (s.writeFlagged_withOutputs st c op p x _ _)
  | bcd x | str x y => exact agree_of_commutes s st c op p rfl rfl (s.storeBytes_withOutputs st c op p _ _)
  | ldr x y => exact agree_of_commutes s st c op p rfl rfl (s.loadRegs_withOutputs st c op p _ _)
  | stm x =>
    refine agree_of_commutes s st c op p rfl rfl ?_
    rw [← State.advanceIndex_withOutputs, ← State.storeBytes_withOutputs]; rfl
  | ldm x =>
    refine agree_of_commutes s st c op p rfl rfl ?_
    rw [← State.advanceIndex_withOutputs, ← State.loadRegs_withOutputs]; rfl
  | _ => exact ⟨_, _, rfl, rfl, rfl⟩

end

/-- Settles O20: every operation an instruction calls commutes with replacing the outputs (`exec_withOutputs`). -/
theorem outputsAreNeverRead : Obligations.OutputsAreNeverRead :=
  fun i s st cause op p => exec_withOutputs s st cause op p i

end Sys2Proof.Machine
end
